-- ==== Sys2Proof/Word.lean ====
section
/-! DEFINITION. The wire words of ISO7816-PE and their widths (rules R14, R15, R80 of spec/00_scope.md and
spec/30_encoding.md). Everything is unsigned (rule R18). -/

namespace Sys2Proof

/-- The wire unit: an unsigned 8-bit value, bit 7 the most significant (rules R15, R80). -/
abbrev Byte := BitVec 8

/-- A 4-bit field: a presence mask, a protocol number, a historical count or a table index (rule R14). -/
abbrev Nibble := BitVec 4

/-- A card status-word code, the key of `SW_CATALOG` (rules R14, R94, R102). -/
abbrev Code16 := BitVec 16

/-- A transport result code, the key of `TRANSPORT_CATALOG` and the operand of both DESCRIBE requests (rules R14, R101). -/
abbrev Code32 := BitVec 32

end Sys2Proof
end

