-- ==== Sys2Proof/Config.lean ====
section
/-! DEFINITION. The implementation parameters of rule R13 that spec/92_eei_decisions.md leaves OPEN (decisions D5, D6, D7,
D23), the spec's default values of three of them (rules R40, R42), and the model's free values.

The parameters are ONE record. A machine state carries the record it was started with (`Machine.State.cfg`), so that a
statement about every state is a statement about every choice of the parameters, as rule R42 asks. The record the block
is really started with is `Config.atStart`, an opaque constant: nothing can be proved of its value. -/

namespace Sys2Proof

/-- The opaque type `Description` of catalog entries (rules R13, R41): here a named token, which no rule inspects
(notes/assumptions/3). -/
structure Description where
  text : String
  deriving DecidableEq, Repr, Inhabited

/-- An entry of `FI_TABLE` or `DI_TABLE`: a positive natural or the symbol `RFU` (rule R42). The proof inside `num` keeps
zero out, as rules R96 and R139 demand. -/
inductive Factor where
  | rfu
  | num (n : Nat) (pos : 0 < n)
  deriving DecidableEq, Repr, Inhabited

/-- The configuration of rules R40 to R42, fixed when the block starts. -/
structure Config where
  /-- `MAX_CONTINUATIONS`, a natural between 0 and 255 (rule R40). -/
  maxContinuations : Fin 256
  /-- `FI_TABLE`, 16 entries (rule R42). -/
  fiTable : Vector Factor 16
  /-- `DI_TABLE`, 16 entries (rule R42). -/
  diTable : Vector Factor 16
  /-- `SW_CATALOG`, a partial map from 16-bit codes as a list of pairs: the first pair of a key counts (rule R41). -/
  swCatalog : List (Code16 × Description)
  /-- `TRANSPORT_CATALOG`, a partial map from 32-bit codes, in the same form (rule R41). -/
  transportCatalog : List (Code32 × Description)
  deriving DecidableEq, Repr, Inhabited

/-- The default `FI_TABLE` of rule R42 (general knowledge of the spec, GK1): a default, used only where a test names it. -/
def Config.defaultFiTable : Vector Factor 16 :=
  #v[.num 372 (by decide), .num 372 (by decide), .num 558 (by decide), .num 744 (by decide),
     .num 1116 (by decide), .num 1488 (by decide), .num 1860 (by decide), .rfu,
     .rfu, .num 512 (by decide), .num 768 (by decide), .num 1024 (by decide),
     .num 1536 (by decide), .num 2048 (by decide), .rfu, .rfu]

/-- The default `DI_TABLE` of rule R42 (general knowledge of the spec, GK1). -/
def Config.defaultDiTable : Vector Factor 16 :=
  #v[.rfu, .num 1 (by decide), .num 2 (by decide), .num 4 (by decide),
     .num 8 (by decide), .num 16 (by decide), .num 32 (by decide), .num 64 (by decide),
     .num 12 (by decide), .num 20 (by decide), .rfu, .rfu,
     .rfu, .rfu, .rfu, .rfu]

/-- The spec's defaults: the cap 32 (rule R40), the tables of rule R42, and empty catalogs (spec/95_test_vectors.md,
Conventions). The machine does not start with this record; a test may. -/
def Config.default : Config :=
  { maxContinuations := 32, fiTable := Config.defaultFiTable, diTable := Config.defaultDiTable,
    swCatalog := [], transportCatalog := [] }

/-- FREE VALUE. The configuration the block was started with (rules R272, R273): OPEN in the spec (decisions D5 to D7),
so nothing is known of it (notes/assumptions/1). -/
opaque Config.atStart : Config

/-- FREE VALUE. Which of several waiting EXCHANGE requests XE accepts: `pick n` names the choice made at the `n`-th such
acceptance; either order is admitted (I15 of spec/93_implementation_defined.md; notes/assumptions/2). -/
opaque Config.pick : Nat → Nat

end Sys2Proof
end

