-- ==== Sys2Proof/Syntax.lean ====
section
/-! DEFINITION. The host requests of rule R101 and the ONE inductive `Instr`: a constructor for every row of
spec/opcode_table.json. The block decodes no instruction words (spec/30_encoding.md): a row is a host request, a character
of an ATR, a command frame, a status word or a response. -/

namespace Sys2Proof

/-- The opaque transport handle (rules R13, R37): a named token, which no rule inspects (notes/assumptions/3). -/
structure Handle where
  name : String
  deriving DecidableEq, Repr, Inhabited

/-- The opaque protocol identifier (rules R13, R37), passed through unchanged (rule R178). -/
structure ProtocolId where
  name : String
  deriving DecidableEq, Repr, Inhabited

/-- The session `(handle, protocolId)` given with an EXCHANGE (rules R20, R37). -/
structure Session where
  handle : Handle
  protocolId : ProtocolId
  deriving DecidableEq, Repr, Inhabited

/-- An `ApduCommand` at the host port: every field a natural, not yet checked against 0..255 (rule R90). -/
structure ApduCommand where
  cla : Nat
  ins : Nat
  p1 : Nat
  p2 : Nat
  data : Option (List Nat)
  le : Option Nat
  deriving DecidableEq, Repr, Inhabited

/-- The four request kinds of the host port. They have no numeric opcode (rule R101, decision D2). -/
inductive Request where
  | decodeAtr (raw : List Byte)
  | exchange (session : Session) (cmd : ApduCommand)
  | describeSw (code : Code32)
  | describeTransport (code : Code32)
  deriving DecidableEq, Repr

/-- One constructor per row of spec/opcode_table.json. -/
inductive Instr where
  /-- `DECODE_ATR(raw)` (rule R120). -/
  | decodeAtr (raw : List Byte)
  /-- `EXCHANGE(session, cmd)` (rule R160). -/
  | exchange (session : Session) (cmd : ApduCommand)
  /-- `DESCRIBE_SW(code)` (rule R206). -/
  | describeSw (code : Code32)
  /-- `DESCRIBE_TRANSPORT(code)` (rule R207). -/
  | describeTransport (code : Code32)
  /-- `ATR_TS_DIRECT`: the TS character `0x3B` (rules R82, R122). -/
  | atrTsDirect
  /-- `ATR_TS_INVERSE`: the TS character `0x3F` (rules R82, R122). -/
  | atrTsInverse
  /-- `ATR_TS_ILLEGAL`: any other TS character (rules R82, R122). -/
  | atrTsIllegal (ts : Byte)
  /-- `ATR_T0`: presence mask `y` of group 1 and historical count `k` (rules R83, R123). -/
  | atrT0 (y : Nibble) (k : Nibble)
  /-- `ATR_TA1`: the table indices of `TA_1` (rules R85, R125, R138). -/
  | atrTa1 (fi : Nibble) (di : Nibble)
  /-- `ATR_TA_i`, `i >= 2` (rules R86, R125). -/
  | atrTaI (v : Byte)
  /-- `ATR_TB_i` (rules R86, R126). -/
  | atrTbI (v : Byte)
  /-- `ATR_TC_i` (rules R86, R127). -/
  | atrTcI (v : Byte)
  /-- `ATR_TD_i`: presence mask `y` of group `i + 1` and protocol number `t` of group `i` (rules R84, R128). -/
  | atrTdI (y : Nibble) (t : Nibble)
  /-- `ATR_HB`: the `K` historical bytes (rules R86, R131). -/
  | atrHb (vs : List Byte)
  /-- `ATR_TCK`: the check byte (rules R86, R132, R133). -/
  | atrTck (c : Byte)
  /-- `APDU_CASE1`: data absent or empty, le absent (rules R91, R162). -/
  | apduCase1 (cla ins p1 p2 : Byte)
  /-- `APDU_CASE2`: data absent or empty, le present (rules R91, R162). -/
  | apduCase2 (cla ins p1 p2 : Byte) (le : Byte)
  /-- `APDU_CASE3`: 1 to 255 data bytes, le absent; Lc is the length of the data (rules R91, R162). -/
  | apduCase3 (cla ins p1 p2 : Byte) (data : List Byte)
  /-- `APDU_CASE4`: 1 to 255 data bytes, le present (rules R91, R162). -/
  | apduCase4 (cla ins p1 p2 : Byte) (data : List Byte) (le : Byte)
  /-- `GET_RESPONSE`: the fixed frame XE synthesizes, with Le `l` (rules R92, R172). -/
  | getResponse (l : Byte)
  /-- `SW_SUCCESS`: the status word `90 00` (rules R95, R168). -/
  | swSuccess
  /-- `SW_MORE_DATA`: a status word `61 sw2` (rules R95, R169). -/
  | swMoreData (sw2 : Byte)
  /-- `SW_OTHER`: any other status word (rules R95, R170). -/
  | swOther (sw1 sw2 : Byte)
  /-- `RESPONSE_SHORT`: a response of 0 or 1 bytes (rules R93, R166). -/
  | responseShort (b : Option Byte)
  /-- `RESPONSE`: a response of 2 or more bytes, `pre ++ [sw1, sw2]` (rules R93, R167). -/
  | response (pre : List Byte) (sw1 sw2 : Byte)
  deriving DecidableEq, Repr

/-- The instruction a host request is (rule R101). -/
def Request.instr : Request → Instr
  | .decodeAtr raw => .decodeAtr raw
  | .exchange session cmd => .exchange session cmd
  | .describeSw code => .describeSw code
  | .describeTransport code => .describeTransport code

end Sys2Proof
end

