-- ==== Sys2Proof/WellFormed.lean ====
section
/-! DEFINITION. Which terms of `Instr` stand for an encoding the spec's table gives. A field that has a type of its own
width needs no check; the checks below are the ones the types do not make. -/

namespace Sys2Proof

/-- The TS values that select a convention (rule R82). -/
def isLegalTs (ts : Byte) : Bool := ts == 0x3B#8 || ts == 0x3F#8

/-- The status words that have a row of their own before `SW_OTHER` (rule R95). -/
def isNamedStatus (sw1 sw2 : Byte) : Bool := (sw1 == 0x90#8 && sw2 == 0x00#8) || sw1 == 0x61#8

/-- The lengths of command data that Lc can carry (rules R91, R99). -/
def isDataLength (n : Nat) : Bool := decide (1 ≤ n) && decide (n ≤ 255)

/-- The term is one the table's rows give (what `exec` does with any other is notes/assumptions/20). The host requests carry any operand: an `ApduCommand` with a field out of range
is a request the block takes and answers with an error (rule R161). -/
def Instr.wellFormed : Instr → Bool
  | .decodeAtr _ => true
  | .exchange _ _ => true
  | .describeSw _ => true
  | .describeTransport _ => true
  | .atrTsDirect => true
  | .atrTsInverse => true
  | .atrTsIllegal ts => !isLegalTs ts
  | .atrT0 _ _ => true
  | .atrTa1 _ _ => true
  | .atrTaI _ => true
  | .atrTbI _ => true
  | .atrTcI _ => true
  | .atrTdI _ _ => true
  | .atrHb vs => decide (vs.length ≤ 15)
  | .atrTck _ => true
  | .apduCase1 _ _ _ _ => true
  | .apduCase2 _ _ _ _ _ => true
  | .apduCase3 _ _ _ _ data => isDataLength data.length
  | .apduCase4 _ _ _ _ data _ => isDataLength data.length
  | .getResponse _ => true
  | .swSuccess => true
  | .swMoreData _ => true
  | .swOther sw1 sw2 => !isNamedStatus sw1 sw2
  | .responseShort _ => true
  | .response _ _ _ => true

end Sys2Proof
end

