-- ==== Sys2Proof/Decode.lean ====
section
/-! DEFINITION. The byte formats of spec/30_encoding.md: field extraction, the decoder of every row of the opcode table
(total on any bytes, rejecting by name), and after it the encoder written from the same formats.

A byte means nothing by itself here: what it encodes depends on WHERE it stands (rules R81, R89, R93). So the decoder takes
the bytes with their `Slot`. A host request has no numeric opcode (rule R101): its encoding is the request itself. -/

namespace Sys2Proof

/-! ### Fields -/

/-- The high nibble `v[7:4]` (rule R15). -/
def hiNibble (b : Byte) : Nibble := b.extractLsb' 4 4

/-- The low nibble `v[3:0]` (rule R15). -/
def loNibble (b : Byte) : Nibble := b.extractLsb' 0 4

/-- The byte with the given nibbles (rules R83 to R85). -/
def ofNibbles (hi lo : Nibble) : Byte := (hi ++ lo : BitVec (4 + 4))

/-- `code16(SW1, SW2) = SW1 * 256 + SW2`, SW1 the high byte (rules R62, R94). -/
def code16 (sw1 sw2 : Byte) : Code16 := (sw1 ++ sw2 : BitVec (8 + 8))

/-- The two bytes of a status-word code, SW1 first (rule R94). -/
def code16Hi (c : Code16) : Byte := c.extractLsb' 8 8

/-- The low byte, SW2, of a status-word code (rule R94). -/
def code16Lo (c : Code16) : Byte := c.extractLsb' 0 8

/-! ### Where bytes stand -/

/-- The position of the bytes being decoded. -/
inductive Slot where
  /-- ATR byte 0 (rule R82). -/
  | ts
  /-- ATR byte 1 (rule R83). -/
  | t0
  /-- Interface byte `TA_1` (rule R85). -/
  | ta1
  /-- Interface byte `TA_i`, `i >= 2` (rule R86). -/
  | ta
  /-- Interface byte `TB_i` (rule R86). -/
  | tb
  /-- Interface byte `TC_i` (rule R86). -/
  | tc
  /-- Interface byte `TD_i` (rule R84). -/
  | td
  /-- The historical bytes, `k` of them (rules R81, R86). -/
  | hb (k : Nat)
  /-- The check byte (rules R81, R86). -/
  | tck
  /-- The frame an EXCHANGE starts with (rule R91). -/
  | commandFrame
  /-- The frame XE synthesizes after a `61xx` (rule R92). -/
  | getResponseFrame
  /-- The two status-word bytes of a response (rules R94, R95). -/
  | statusWord
  /-- A whole response of the transport (rule R93). -/
  | response
  deriving DecidableEq, Repr

/-- What a decoder is given: a host request, or bytes with their position. -/
inductive Wire where
  | request (r : Request)
  | bytes (slot : Slot) (bs : List Byte)
  deriving DecidableEq, Repr

/-- Why the decoder refuses bytes. -/
inductive DecodeError where
  /-- A character position holds exactly one byte. -/
  | notOneByte
  /-- The historical bytes are not `K` bytes, or `K` is over 15 (rule R83). -/
  | wrongHistoricalCount
  /-- No command frame is shorter than CLA INS P1 P2 (rule R91). -/
  | frameTooShort
  /-- Lc is 0, or the frame's length is neither `5 + Lc` nor `6 + Lc` (rules R91, R99). -/
  | frameLengthMismatch
  /-- The bytes are not the fixed GET RESPONSE frame (rule R92). -/
  | notGetResponse
  /-- A status word is exactly two bytes (rule R94). -/
  | notTwoBytes
  deriving DecidableEq, Repr

/-! ### The decoder -/

/-- TS (rules R82, R122). -/
def decodeTs (b : Byte) : Instr :=
  if b = 0x3B#8 then .atrTsDirect else if b = 0x3F#8 then .atrTsInverse else .atrTsIllegal b

/-- The status-word patterns, tried in the order of rule R95. -/
def decodeStatus (sw1 sw2 : Byte) : Instr :=
  if sw1 = 0x90#8 ∧ sw2 = 0x00#8 then .swSuccess
  else if sw1 = 0x61#8 then .swMoreData sw2
  else .swOther sw1 sw2

/-- The frame of an EXCHANGE, by its length and Lc (rules R91, R99). -/
def decodeCommandFrame : List Byte → Except DecodeError Instr
  | [cla, ins, p1, p2] => .ok (.apduCase1 cla ins p1 p2)
  | [cla, ins, p1, p2, le] => .ok (.apduCase2 cla ins p1 p2 le)
  | cla :: ins :: p1 :: p2 :: lc :: rest =>
    if lc = 0x00#8 then .error .frameLengthMismatch
    else if rest.length = lc.toNat then .ok (.apduCase3 cla ins p1 p2 rest)
    else if rest.length = lc.toNat + 1 then
      .ok (.apduCase4 cla ins p1 p2 (rest.take lc.toNat) (rest.getLastD 0x00#8))
    else .error .frameLengthMismatch
  | _ => .error .frameTooShort

/-- The fixed five-byte frame of rule R92. -/
def decodeGetResponse : List Byte → Except DecodeError Instr
  | [cla, ins, p1, p2, le] =>
    if cla = 0x00#8 ∧ ins = 0xC0#8 ∧ p1 = 0x00#8 ∧ p2 = 0x00#8 then .ok (.getResponse le)
    else .error .notGetResponse
  | _ => .error .notGetResponse

/-- A response, split as rule R93 says; fewer than two bytes hold no status word. -/
def decodeResponse : List Byte → Instr
  | [] => .responseShort none
  | [b] => .responseShort (some b)
  | b :: c :: rest =>
    let r := b :: c :: rest
    .response (r.take (r.length - 2)) (r.getD (r.length - 2) 0x00#8) (r.getD (r.length - 1) 0x00#8)

/-- A position that holds exactly one byte. -/
def decodeOne (f : Byte → Instr) : List Byte → Except DecodeError Instr
  | [b] => .ok (f b)
  | _ => .error .notOneByte

/-- The decoder: every row of the opcode table from the bytes of its position. -/
def decode : Wire → Except DecodeError Instr
  | .request r => .ok r.instr
  | .bytes .ts bs => decodeOne decodeTs bs
  | .bytes .t0 bs => decodeOne (fun b => .atrT0 (hiNibble b) (loNibble b)) bs
  | .bytes .ta1 bs => decodeOne (fun b => .atrTa1 (hiNibble b) (loNibble b)) bs
  | .bytes .ta bs => decodeOne .atrTaI bs
  | .bytes .tb bs => decodeOne .atrTbI bs
  | .bytes .tc bs => decodeOne .atrTcI bs
  | .bytes .td bs => decodeOne (fun b => .atrTdI (hiNibble b) (loNibble b)) bs
  | .bytes (.hb k) bs =>
    if bs.length = k ∧ k ≤ 15 then .ok (.atrHb bs) else .error .wrongHistoricalCount
  | .bytes .tck bs => decodeOne .atrTck bs
  | .bytes .commandFrame bs => decodeCommandFrame bs
  | .bytes .getResponseFrame bs => decodeGetResponse bs
  | .bytes .statusWord bs =>
    match bs with
    | [sw1, sw2] => .ok (decodeStatus sw1 sw2)
    | _ => .error .notTwoBytes
  | .bytes .response bs => .ok (decodeResponse bs)

/-! ### The encoder -/

/-- The frame layout of rule R91: header, then Lc and the data when there are any, then Le when it is present. -/
def apduFrame (cla ins p1 p2 : Byte) (data : List Byte) (le : Option Byte) : List Byte :=
  [cla, ins, p1, p2]
    ++ (if data.isEmpty then [] else BitVec.ofNat 8 data.length :: data)
    ++ le.toList

/-- The GET RESPONSE frame of rule R92, `L` its Le. -/
def getResponseFrame (l : Byte) : List Byte := [0x00#8, 0xC0#8, 0x00#8, 0x00#8, l]

/-- The encoder, row by row, from the formats of spec/30_encoding.md. -/
def encode : Instr → Wire
  | .decodeAtr raw => .request (.decodeAtr raw)
  | .exchange session cmd => .request (.exchange session cmd)
  | .describeSw code => .request (.describeSw code)
  | .describeTransport code => .request (.describeTransport code)
  | .atrTsDirect => .bytes .ts [0x3B#8]
  | .atrTsInverse => .bytes .ts [0x3F#8]
  | .atrTsIllegal ts => .bytes .ts [ts]
  | .atrT0 y k => .bytes .t0 [ofNibbles y k]
  | .atrTa1 fi di => .bytes .ta1 [ofNibbles fi di]
  | .atrTaI v => .bytes .ta [v]
  | .atrTbI v => .bytes .tb [v]
  | .atrTcI v => .bytes .tc [v]
  | .atrTdI y t => .bytes .td [ofNibbles y t]
  | .atrHb vs => .bytes (.hb vs.length) vs
  | .atrTck c => .bytes .tck [c]
  | .apduCase1 cla ins p1 p2 => .bytes .commandFrame (apduFrame cla ins p1 p2 [] none)
  | .apduCase2 cla ins p1 p2 le => .bytes .commandFrame (apduFrame cla ins p1 p2 [] (some le))
  | .apduCase3 cla ins p1 p2 data => .bytes .commandFrame (apduFrame cla ins p1 p2 data none)
  | .apduCase4 cla ins p1 p2 data le => .bytes .commandFrame (apduFrame cla ins p1 p2 data (some le))
  | .getResponse l => .bytes .getResponseFrame (getResponseFrame l)
  | .swSuccess => .bytes .statusWord [0x90#8, 0x00#8]
  | .swMoreData sw2 => .bytes .statusWord [0x61#8, sw2]
  | .swOther sw1 sw2 => .bytes .statusWord [sw1, sw2]
  | .responseShort b => .bytes .response b.toList
  | .response pre sw1 sw2 => .bytes .response (pre ++ [sw1, sw2])

/-! ### Words numbered as the opcode table numbers them -/

/-- The `n` bytes of `w`, bits 7..0 first. -/
def bytesOfWord : Nat → Nat → List Byte
  | 0, _ => []
  | n + 1, w => BitVec.ofNat 8 w :: bytesOfWord n (w / 256)

/-- The instruction the decoder reads from the `nbits` bits `w` of a table row. The table gives bits to a TS character
(8 bits) and to a status word (16 bits, SW1 in bits 15..8 of the one word, so SW1 is the byte received first). The command
frames are byte patterns: their first byte is bits 7..0, and the fixed GET RESPONSE frame is read as such. A response of no
bytes is the row of 0 bits (notes/assumptions/8). -/
def decodeTableWord (nbits w : Nat) : Option Instr :=
  if nbits = 0 then (decode (.bytes .response [])).toOption
  else if nbits = 8 then (decode (.bytes .ts [BitVec.ofNat 8 w])).toOption
  else if nbits = 16 then
    (decode (.bytes .statusWord [code16Hi (BitVec.ofNat 16 w), code16Lo (BitVec.ofNat 16 w)])).toOption
  else if nbits % 8 = 0 then
    match decode (.bytes .getResponseFrame (bytesOfWord (nbits / 8) w)) with
    | .ok i => some i
    | .error _ => (decode (.bytes .commandFrame (bytesOfWord (nbits / 8) w))).toOption
  else none

end Sys2Proof
end

