-- ==== Sys2Proof/Machine/State.lean ====
section
/-! DEFINITION. The state of ISO7816-PE (spec/10_state.md), the values its ports carry, and the state after reset.

`Xe` is the whole architectural state (rule R30). The other fields of `State` are the configuration the block was started
with (rules R40 to R42) and what stands AT ITS TWO PORTS (rule R12): the requests waiting at the host port (rule R184), the
calls made on the transport port (rule R164), the results delivered (rules R173, R174), the order in which the outside acts,
and the working variables of a decode in the middle of its atomic step (rule R39). The block has no addressable memory and
no program counter (rules R45, R60). -/

namespace Sys2Proof.Machine

open Sys2Proof

/-! ### Records -/

/-- A status word `(sw1, sw2)` (rules R20, R35). -/
structure StatusWord where
  sw1 : Byte
  sw2 : Byte
  deriving DecidableEq, Repr, Inhabited

/-- The opaque value a transport failure carries (rules R164, R246): a named token (notes/assumptions/3). -/
structure Info where
  name : String
  deriving DecidableEq, Repr, Inhabited

/-- `initialCharacter` (rules R105, R122). -/
inductive Convention where
  | direct
  | inverse
  deriving DecidableEq, Repr, Inhabited

/-- The reasons of `Malformed(reason)` (rules R120, R240). -/
inductive Malformed where
  /-- `TOO_SHORT` (rule R121). -/
  | tooShort
  /-- `BAD_TS` (rule R122). -/
  | badTs
  /-- `TRUNCATED` (rule R130). -/
  | truncated
  /-- `TRAILING_OR_MISSING` (rules R131, R132, R134). -/
  | trailingOrMissing
  deriving DecidableEq, Repr

/-- The fields of an `ApduCommand` an error can name, in the order they are checked (rules R161, R240). -/
inductive CmdField where
  | cla
  | ins
  | p1
  | p2
  | data
  | le
  deriving DecidableEq, Repr

/-- The errors of an exchange (rules R38, R240). -/
inductive XeError where
  | invalidParameter (field : CmdField)
  | emptyResponse
  | cardStatus (sw1 sw2 : Byte) (description : Option Description)
  | tooManyContinuations
  | transportFailure (info : Info)
  deriving DecidableEq, Repr

/-- One interface group of an `AtrRecord` (rule R105). -/
structure AtrGroup where
  ta : Option Byte
  tb : Option Byte
  tc : Option Byte
  td : Option Byte
  protocol : Option Nibble
  deriving DecidableEq, Repr, Inhabited

/-- The group a loop iteration starts with (rule R120). -/
def AtrGroup.empty : AtrGroup := { ta := none, tb := none, tc := none, td := none, protocol := none }

/-- A field identifier of `fieldOrder` (rule R135). -/
inductive FieldId where
  | ts
  | t0
  | ta (i : Nat)
  | tb (i : Nat)
  | tc (i : Nat)
  | td (i : Nat)
  | hb
  | tck
  deriving DecidableEq, Repr

/-- An `AtrRecord` (rule R105). -/
structure AtrRecord where
  initialCharacter : Convention
  formatByte : Byte
  interfaceGroups : List AtrGroup
  historicalBytes : List Byte
  checkByte : Option Byte
  fieldOrder : List FieldId
  fi : Option Factor
  di : Option Factor
  deriving DecidableEq, Repr

/-- An `ApduResponse` (rule R106). -/
structure ApduResponse where
  body : List Byte
  sw : StatusWord
  deriving DecidableEq, Repr

/-- What the block delivers on the host port (rules R101, R247): the typed result of one request. -/
inductive HostResult where
  | atr (r : Except Malformed AtrRecord)
  | exchange (r : Except XeError ApduResponse)
  | description (d : Option Description)
  deriving DecidableEq, Repr

/-- One call `exchangeBytes(handle, protocolId, frame)` on the transport port (rules R12, R164). -/
structure Call where
  session : Session
  frame : List Byte
  deriving DecidableEq, Repr

/-- What the transport answers a call with (rule R164): bytes, or a failure. -/
inductive Answer where
  | bytes (r : List Byte)
  | failure (info : Info)
  deriving DecidableEq, Repr

/-- One act at the block's boundary, or XE's turn. The list of them in `State` says in which order they happen. -/
inductive Event where
  /-- The host issues a request (rule R101). -/
  | request (r : Request)
  /-- The transport answers the `call`-th call made on the port, counted from 1 (rules R164, R271). -/
  | answer (call : Nat) (a : Answer)
  /-- The platform asserts reset (rule R270). -/
  | reset
  /-- XE takes the step its registers enable, if any (rules R164, R171 to R174, R184). -/
  | xe
  deriving DecidableEq, Repr

/-! ### The working variables of one decode -/

/-- Which step of rule R120 a decode has come to. -/
inductive AtrPhase where
  /-- Step 2 comes next. -/
  | ts
  /-- Step 3 comes next. -/
  | t0
  /-- In step 4, with a presence bit still to be served. -/
  | group
  /-- Step 5 comes next. -/
  | hist
  /-- Step 6 comes next, with a check byte required. -/
  | tck
  /-- Steps 7 and 8 come next. -/
  | final
  deriving DecidableEq, Repr, Inhabited

/-- The local variables of DECODE_ATR (rules R39, R120). They live inside one atomic step: between the steps of a run
`active` is false. -/
structure AtrWork where
  /-- A decode is under way. -/
  active : Bool
  /-- The operand, one snapshot (rule R75). -/
  raw : List Byte
  /-- The cursor (rules R45, R120). -/
  cur : Nat
  /-- The group index, from 1 (rule R124). -/
  idx : Nat
  /-- The historical count `K` (rule R123). -/
  k : Nat
  /-- The presence bits of the current group that are still to be served (rule R124). -/
  mask : Nibble
  /-- Some consumed `TD_i` has a nonzero low nibble (rules R46, R128). -/
  anyNonT0 : Bool
  /-- The partial record. -/
  conv : Convention
  t0 : Byte
  group : AtrGroup
  groups : List AtrGroup
  hist : List Byte
  tck : Option Byte
  order : List FieldId
  fi : Option Factor
  di : Option Factor
  /-- The step of rule R120 reached. -/
  phase : AtrPhase
  /-- The first check that failed (rule R248). -/
  error : Option Malformed
  deriving DecidableEq, Repr

/-- No decode under way. -/
def AtrWork.idle : AtrWork :=
  { active := false, raw := [], cur := 2, idx := 1, k := 0, mask := 0#4, anyNonT0 := false, conv := .direct, t0 := 0x00#8,
    group := AtrGroup.empty, groups := [], hist := [], tck := none, order := [.ts, .t0], fi := none, di := none,
    phase := .ts, error := none }

/-! ### The exchange engine and the block -/

/-- `XE.state` (rule R31). An enumeration, as rule R49 allows. -/
inductive XeState where
  | idle
  | sending
  | awaitingContinuation
  | done
  | failed
  deriving DecidableEq, Repr, Inhabited

/-- The XE register set (rule R30): all the architectural state there is. -/
structure Xe where
  /-- `XE.state` (rule R31). -/
  state : XeState
  /-- `XE.txPending` (rule R32). -/
  txPending : Bool
  /-- `XE.frame` (rule R33). -/
  frame : List Byte
  /-- `XE.body` (rule R34). -/
  body : List Byte
  /-- `XE.sw` (rule R35). -/
  sw : Option StatusWord
  /-- `XE.rounds`, an unsigned 8-bit counter (rule R36). -/
  rounds : BitVec 8
  /-- `XE.session` (rule R37). -/
  session : Option Session
  /-- `XE.error` (rule R38). -/
  error : Option XeError
  deriving DecidableEq, Repr

/-- The reset values of rules R31 to R38 and R270. -/
def Xe.reset : Xe :=
  { state := .idle, txPending := false, frame := [], body := [], sw := none, rounds := 0#8, session := none, error := none }

/-- The block, its configuration and what stands at its ports. -/
structure State where
  /-- The configuration the block was started with (rules R40 to R42, R273). No step writes it (rule R272). -/
  cfg : Config
  /-- The architectural state (rule R30). -/
  xe : Xe
  /-- Host port: the EXCHANGE requests not yet accepted, oldest first, as they arrived (rule R184; notes/assumptions/16). -/
  waiting : List (Session × ApduCommand)
  /-- The model's own: how many choices among several waiting requests have been made (I15). -/
  picks : Nat
  /-- The model's own: what happens next at the ports, in order. -/
  events : List Event
  /-- Transport port: the calls made so far, oldest first (rules R71, R164). -/
  calls : List Call
  /-- Host port: the results delivered so far, oldest first (rules R173, R174, R254). -/
  delivered : List HostResult
  /-- The model's own: the working variables of a decode inside its step (rule R39). -/
  atrd : AtrWork
  deriving DecidableEq, Repr

/-- The block right after reset, started with the configuration `cfg` (rules R270, R272). -/
def State.resetWith (cfg : Config) : State :=
  { cfg := cfg, xe := Xe.reset, waiting := [], picks := 0, events := [], calls := [], delivered := [],
    atrd := AtrWork.idle }

/-- The machine right after reset (rule R270). Of its configuration nothing is known (notes/assumptions/1). -/
def State.reset : State := State.resetWith Config.atStart

/-! ### Stops -/

/-- Why the machine can stop with a fault. All of them are SAFE: each is raised only in a state that no rule reaches (the
invariant `Safety.Inv` rules them out), where the real block has no specified behaviour. -/
inductive Fault where
  /-- Raised by XE's step in `Sending` with `XE.session = none`: rule R163 latches a session. Safe. -/
  | sendingWithoutSession
  /-- Raised by XE's step in `AwaitingContinuation` when `XE.sw` is not `some (0x61, _)`: rule R169 leaves it so. Safe. -/
  | continuationWithoutStatus
  /-- Raised by XE's step in `Done` with `XE.sw = none`: rule R167 writes it. Safe. -/
  | doneWithoutStatus
  /-- Raised by XE's step in `Failed` with `XE.error = none`: rule R251 writes it. Safe. -/
  | failedWithoutError
  /-- Raised by `XeState.ofCode` on the codes 5 to 7, which no rule reaches (rule R49, I14). Safe. -/
  | illegalStateCode
  deriving DecidableEq, Repr

/-- Why the machine can refuse. -/
inductive Refusal where
  /-- Raised by `exec` for an instruction that has no meaning yet. Safe. No arm of this model raises it. -/
  | notModelled (mnemonic : String)
  deriving DecidableEq, Repr

/-- What a meaning answers with. -/
abbrev Out := Host.Outcome State Fault Refusal

end Sys2Proof.Machine
end

