-- ==== Sys2Proof/Machine/Operands.lean ====
section
/-! DEFINITION. The operands of the block's operations: the range check of an `ApduCommand` and its serialization (rules
R161, R91), the split of a response (rule R93), the lookups in the four tables of the configuration (rules R41, R42), and
the reading of the ATR characters at a position (rule R120). -/

namespace Sys2Proof.Machine

open Sys2Proof

/-! ### The command of an EXCHANGE -/

/-- A host-port natural that fits one byte (rules R90, R161). -/
def isByteValue (n : Nat) : Bool := decide (n ≤ 255)

/-- The data field fits: at most 255 bytes, each in range. `none` and `some []` are valid (rule R161). -/
def isValidData : Option (List Nat) → Bool
  | none => true
  | some d => decide (d.length ≤ 255) && d.all isByteValue

/-- The Le field fits (rule R161). -/
def isValidLe : Option Nat → Bool
  | none => true
  | some n => isByteValue n

/-- The first field of the command that fails its check, in the order of rule R161. -/
def firstInvalidField (c : ApduCommand) : Option CmdField :=
  if !isByteValue c.cla then some .cla
  else if !isByteValue c.ins then some .ins
  else if !isByteValue c.p1 then some .p1
  else if !isByteValue c.p2 then some .p2
  else if !isValidData c.data then some .data
  else if !isValidLe c.le then some .le
  else none

/-- A checked natural as the byte it is. -/
def byteOf (n : Nat) : Byte := BitVec.ofNat 8 n

/-- The data bytes of a command; absent data are no bytes (rule R91). -/
def dataBytes (c : ApduCommand) : List Byte := (c.data.getD []).map byteOf

/-- `serialize(c)`, for a command whose fields are in range (rule R91). -/
def serialize (c : ApduCommand) : List Byte :=
  apduFrame (byteOf c.cla) (byteOf c.ins) (byteOf c.p1) (byteOf c.p2) (dataBytes c) (c.le.map byteOf)

/-- The frame row a command is (the four cases of rule R91's table). -/
def commandRow (c : ApduCommand) : Instr :=
  match dataBytes c, c.le with
  | [], none => .apduCase1 (byteOf c.cla) (byteOf c.ins) (byteOf c.p1) (byteOf c.p2)
  | [], some le => .apduCase2 (byteOf c.cla) (byteOf c.ins) (byteOf c.p1) (byteOf c.p2) (byteOf le)
  | d, none => .apduCase3 (byteOf c.cla) (byteOf c.ins) (byteOf c.p1) (byteOf c.p2) d
  | d, some le => .apduCase4 (byteOf c.cla) (byteOf c.ins) (byteOf c.p1) (byteOf c.p2) d (byteOf le)

/-! ### The tables -/

/-- `FI_TABLE[i]` (rules R42, R138). -/
def fiOf (cfg : Config) (i : Nibble) : Factor := cfg.fiTable[i.toNat]'i.isLt

/-- `DI_TABLE[i]` (rules R42, R138). -/
def diOf (cfg : Config) (i : Nibble) : Factor := cfg.diTable[i.toNat]'i.isLt

/-- `SW_CATALOG(c)`: the lookup XE uses, `describeSW` (rule R211). -/
def swCatalogAt (cfg : Config) (c : Code16) : Option Description := cfg.swCatalog.lookup c

/-- `TRANSPORT_CATALOG(c)` (rule R207). -/
def transportCatalogAt (cfg : Config) (c : Code32) : Option Description := cfg.transportCatalog.lookup c

/-- The result of DESCRIBE_SW: a code above `0xFFFF` is no status word and has no entry (rule R206, decision D29). -/
def describeSwResult (cfg : Config) (code : Code32) : Option Description :=
  if code.toNat ≤ 0xFFFF then swCatalogAt cfg (code.setWidth 16) else none

/-! ### The characters of an ATR -/

/-- The bytes that stand at a position of the ATR being decoded (rules R65, R120): TS and T0 by their index, the others from
the cursor. A list that is too short means that the bytes are not there. -/
def AtrWork.bytesAt (w : AtrWork) : Slot → List Byte
  | .ts => w.raw.take 1
  | .t0 => (w.raw.drop 1).take 1
  | .hb k => (w.raw.drop w.cur).take k
  | _ => (w.raw.drop w.cur).take 1

end Sys2Proof.Machine
end

