-- ==== Sys2Proof/Machine/Flags.lean ====
section
/-! DEFINITION. The block's only flag, `XE.txPending`, and the decoder-local flag `anyNonT0` (rule R46), with the conditions
read from them. There are no condition codes. -/

namespace Sys2Proof.Machine

open Sys2Proof

/-- XE waits for the transport's answer (rules R32, R164, R180). -/
def Xe.waitsForAnswer (x : Xe) : Bool := x.state == .sending && x.txPending

/-- XE has a frame to send (rules R32, R164). -/
def Xe.hasFrameToIssue (x : Xe) : Bool := x.state == .sending && !x.txPending

/-- The continuation rounds are used up (rule R171). The comparison is written `≥`: in every state a run reaches `XE.rounds`
is at most the cap (rule R36), so it is the `=` of rule R171 there; a counter beyond the cap, which no rule reaches, ends the
exchange too (notes/assumptions/7). -/
def capReached (cfg : Config) (x : Xe) : Bool := decide (cfg.maxContinuations.val ≤ x.rounds.toNat)

/-- `(1 if anyNonT0 else 0)`: the check byte that is already known to be required (rule R130, decision D14). -/
def AtrWork.tckNeed (w : AtrWork) : Nat := if w.anyNonT0 then 1 else 0

/-- The truncation check before an interface byte is consumed, an inequality over naturals (rule R130). -/
def AtrWork.isTruncated (w : AtrWork) : Bool := decide (w.raw.length < w.cur + 1 + (w.k + w.tckNeed))

/-- What `anyNonT0` becomes after a `TD_i` with protocol `t` (rules R104, R128). -/
def AtrWork.nonT0After (w : AtrWork) (t : Nibble) : Bool := w.anyNonT0 || t != 0#4

end Sys2Proof.Machine
end

