-- ==== Sys2Proof/Machine/Ops.lean ====
section
/-! DEFINITION. The shared operations of the block: writing the registers, the host port and the transport port, entering an
error and leaving it (the block's exceptions, rules R251 and R252), and reset (rule R270). The meanings of
Machine/Atr.lean, Machine/Exchange.lean and Machine/Catalog.lean are made of them. -/

namespace Sys2Proof.Machine

open Sys2Proof

/-! ### Registers and ports -/

/-- Write the XE registers. -/
def State.withXe (s : State) (x : Xe) : State := { s with xe := x }

/-- Write the working variables of the decoder (rule R39). -/
def State.withAtrd (s : State) (w : AtrWork) : State := { s with atrd := w }

/-- What is still to happen at the ports. -/
def State.withEvents (s : State) (es : List Event) : State := { s with events := es }

/-- Host port: deliver a result (rules R247, R254). The host is always ready to take it (rule R173). -/
def State.deliver (s : State) (r : HostResult) : State := { s with delivered := s.delivered ++ [r] }

/-- Host port: an EXCHANGE that cannot be accepted yet waits (rule R184). DESIGN CHOICE: it waits with the operands it arrived with,
and no act of the host alters or withdraws it; rules R75 and R185 speak of changes after acceptance only
(notes/assumptions/16). -/
def State.enqueue (s : State) (session : Session) (cmd : ApduCommand) : State :=
  { s with waiting := s.waiting ++ [(session, cmd)] }

/-- Transport port: `Transport(h, p, frame)`, one call of `exchangeBytes` (rules R18, R164). -/
def State.call (s : State) (session : Session) (frame : List Byte) : State :=
  { s with calls := s.calls ++ [{ session := session, frame := frame }] }

/-! ### Entering and leaving an error -/

/-- Entry to an error of an exchange: the registers written are the three of rule R251, the others keep the values the step
gave them. -/
def Xe.enterError (x : Xe) (e : XeError) : Xe :=
  { x with error := some e, txPending := false, state := .failed }

/-- Entry to an error (rule R251). -/
def State.enterError (s : State) (e : XeError) : State := s.withXe (s.xe.enterError e)

/-- Return from an error, the only way out of `Failed`: deliver `err e`, clear every XE register (rules R174, R252). -/
def State.leaveError (s : State) (e : XeError) : State :=
  (s.deliver (.exchange (.error e))).withXe Xe.reset

/-- Delivery of success: `ok {body, sw}`, then every XE register cleared (rule R173). -/
def State.deliverOk (s : State) (sw : StatusWord) : State :=
  (s.deliver (.exchange (.ok { body := s.xe.body, sw := sw }))).withXe Xe.reset

/-! ### The exchange engine's register writes -/

/-- `XE.frame` takes a command's frame (rule R162). -/
def Xe.putFrame (x : Xe) (frame : List Byte) : Xe := { x with frame := frame }

/-- Acceptance of a valid EXCHANGE: every register but the frame, which rule R162 writes (rule R163). -/
def Xe.accept (x : Xe) (session : Session) : Xe :=
  { x with body := [], sw := none, rounds := 0#8, session := some session, error := none, txPending := false,
           state := .sending }

/-- The frame has been issued (rule R164). -/
def Xe.markIssued (x : Xe) : Xe := { x with txPending := true }

/-- Split and append: what a response of two or more bytes writes before its status word is sorted (rule R167). -/
def Xe.takeResponse (x : Xe) (pre : List Byte) (sw1 sw2 : Byte) : Xe :=
  { x with txPending := false, body := x.body ++ pre, sw := some { sw1 := sw1, sw2 := sw2 } }

/-- XE moves to another state and writes nothing else (rules R168, R169). -/
def Xe.moveTo (x : Xe) (st : XeState) : Xe := { x with state := st }

/-- GET RESPONSE synthesis: the three writes of rule R172, with `txPending = 0`. -/
def Xe.continueWith (x : Xe) (l : Byte) : Xe :=
  { x with frame := getResponseFrame l, rounds := x.rounds + 1#8, state := .sending, txPending := false }

/-! ### The steps that no row of the opcode table names -/

/-- The issue step: one call with the latched session and `XE.frame` (rules R164, R178). DESIGN CHOICE: a call that reset abandoned
and that is not yet answered does not count as a use of its handle, so a new EXCHANGE on that handle issues its call; rule R275
does not say whether this is the run it excludes (notes/assumptions/17). -/
def State.issue (s : State) (session : Session) : State :=
  (s.call session s.xe.frame).withXe s.xe.markIssued

/-- The transport failed the call: the frame is not retried, the `info` is passed through (rules R165, R246). -/
def State.transportFailed (s : State) (info : Info) : State := s.enterError (.transportFailure info)

/-- Reset (rule R270): every XE register takes its reset value. ATRD and SWC have no state. The configuration stays (rule
R272), no result is delivered for an abandoned exchange (rule R271), and what stands at the ports is the platform's
(notes/assumptions/6). -/
def State.resetBlock (s : State) : State := s.withXe Xe.reset

/-- The answer to the `call`-th call belongs to the call XE waits for. Any other answer is one that reset abandoned, and is
discarded (rule R271; notes/assumptions/5). -/
def State.expects (s : State) (call : Nat) : Bool := s.xe.waitsForAnswer && call == s.calls.length

/-- Take out the `n`-th element of a list. -/
def takeNth {α : Type} : Nat → List α → Option (α × List α)
  | _, [] => none
  | 0, a :: rest => some (a, rest)
  | n + 1, a :: rest => (takeNth n rest).map fun p => (p.1, a :: p.2)

/-- Which waiting EXCHANGE is accepted next: the only one, or, among several, the one the free value names (rule R184, I15;
notes/assumptions/2). -/
def State.pickWaiting (s : State) : Option ((Session × ApduCommand) × State) :=
  match s.waiting with
  | [] => none
  | [r] => some (r, { s with waiting := [] })
  | rs =>
    (takeNth (Config.pick s.picks % rs.length) rs).map fun p =>
      (p.1, { s with waiting := p.2, picks := s.picks + 1 })

end Sys2Proof.Machine
end

