-- ==== Sys2Proof/Machine/Atr.lean ====
section
/-! DEFINITION. The ATR decoder ATRD (spec/40_atr_decoder.md): the place a decode has come to, one operation per character
row of the opcode table, the run of all of them that DECODE_ATR is, and the meanings of the twelve rows.

A character row acts on the working variables of a decode. It acts only where its character is the one awaited (rules R81,
R87, R124): elsewhere no byte of that kind is consumed (rules R125 to R128, R132) and nothing is written
(notes/assumptions/4). Between the steps of a run no decode is under way: DECODE_ATR runs all its characters in one step, on
working variables of its own. -/

namespace Sys2Proof.Machine

open Sys2Proof

/-! ### The place of a decode -/

/-- The local variables as step 1 of rule R120 leaves them. A `raw` of fewer than 2 bytes is `TOO_SHORT` and no byte of it is
read (rule R121). -/
def AtrWork.start (raw : List Byte) : AtrWork :=
  { AtrWork.idle with
    active := true, raw := raw, error := if raw.length < 2 then some .tooShort else none }

/-- The position inside a group: the lowest presence bit still to be served (rules R87, R124). -/
def AtrWork.groupPlace (w : AtrWork) : Option Slot :=
  if w.mask.getLsbD 0 then some (if w.idx = 1 then .ta1 else .ta)
  else if w.mask.getLsbD 1 then some .tb
  else if w.mask.getLsbD 2 then some .tc
  else if w.mask.getLsbD 3 then some .td
  else none

/-- The position a step of rule R120 is at. -/
def AtrWork.phasePlace (w : AtrWork) : Option Slot :=
  match w.phase with
  | .ts => some .ts
  | .t0 => some .t0
  | .group => w.groupPlace
  | .hist => some (.hb w.k)
  | .tck => some .tck
  | .final => none

/-- The position whose bytes are consumed next: none when no decode is under way, after an error (rule R248), and when steps
2 to 6 are done. -/
def AtrWork.place (w : AtrWork) : Option Slot :=
  if w.active ∧ w.error = none then w.phasePlace else none

/-- The check that comes before the bytes of a position are read, and the error it gives: the truncation check of rule R130
before an interface byte, the shortfalls of rules R131 and R132. -/
def AtrWork.shortfall (w : AtrWork) : Slot → Option Malformed
  | .ta1 => if w.isTruncated then some .truncated else none
  | .ta => if w.isTruncated then some .truncated else none
  | .tb => if w.isTruncated then some .truncated else none
  | .tc => if w.isTruncated then some .truncated else none
  | .td => if w.isTruncated then some .truncated else none
  | .hb k => if w.raw.length < w.cur + k then some .trailingOrMissing else none
  | .tck => if w.raw.length < w.cur + 1 then some .trailingOrMissing else none
  | _ => none

/-- The first check that fails decides (rule R248). -/
def AtrWork.fail (w : AtrWork) (r : Malformed) : AtrWork := { w with error := some r }

/-- Consume the bytes of a position, which must be the one awaited: check first, then write. A run fetches them from `raw`; that a
row run alone records its own operands is the model's choice (notes/assumptions/19). -/
def AtrWork.consume (w : AtrWork) (slot : Slot) (write : AtrWork → AtrWork) : AtrWork :=
  if w.place = some slot then
    match w.shortfall slot with
    | some r => w.fail r
    | none => write w
  else w

/-- When no presence bit is left, the chain ends: the group is recorded and step 5 comes next (rule R129). -/
def AtrWork.closeGroup (w : AtrWork) : AtrWork :=
  if w.mask = 0#4 then { w with groups := w.groups ++ [w.group], phase := .hist }
  else { w with phase := .group }

/-- One interface byte has been consumed: the cursor moves by one, the field is listed (rules R45, R130, R135), and presence
bit `bit` is served. -/
def AtrWork.advance (w : AtrWork) (id : FieldId) (bit : Nibble) : AtrWork :=
  { w with cur := w.cur + 1, order := w.order ++ [id], mask := w.mask &&& ~~~bit }

/-! ### One operation per character row -/

/-- TS with a legal value: the convention, a label only (rules R63, R122, R137). -/
def AtrWork.charTs (conv : Convention) (w : AtrWork) : AtrWork :=
  w.consume .ts fun w => { w with conv := conv, phase := .t0 }

/-- TS with any other value (rule R122). -/
def AtrWork.charBadTs (w : AtrWork) : AtrWork := w.consume .ts fun w => w.fail .badTs

/-- T0: the format byte, `K` and the presence mask of group 1 (rule R123); the group loop starts (rule R124). -/
def AtrWork.charT0 (y k : Nibble) (w : AtrWork) : AtrWork :=
  w.consume .t0 fun w => { w with t0 := ofNibbles y k, k := k.toNat, mask := y }.closeGroup

/-- `TA_1` (rules R125, R138): stored, and interpreted through the two tables; an `RFU` entry is kept as it is (rule R139). -/
def AtrWork.charTa1 (cfg : Config) (fi di : Nibble) (w : AtrWork) : AtrWork :=
  w.consume .ta1 fun w =>
    ({ w with group := { w.group with ta := some (ofNibbles fi di) },
              fi := some (fiOf cfg fi), di := some (diOf cfg di) }.advance (.ta w.idx) 0x1#4).closeGroup

/-- `TA_i`, `i >= 2` (rules R86, R125). -/
def AtrWork.charTa (v : Byte) (w : AtrWork) : AtrWork :=
  w.consume .ta fun w =>
    ({ w with group := { w.group with ta := some v } }.advance (.ta w.idx) 0x1#4).closeGroup

/-- `TB_i` (rules R86, R126). -/
def AtrWork.charTb (v : Byte) (w : AtrWork) : AtrWork :=
  w.consume .tb fun w =>
    ({ w with group := { w.group with tb := some v } }.advance (.tb w.idx) 0x2#4).closeGroup

/-- `TC_i` (rules R86, R127). -/
def AtrWork.charTc (v : Byte) (w : AtrWork) : AtrWork :=
  w.consume .tc fun w =>
    ({ w with group := { w.group with tc := some v } }.advance (.tc w.idx) 0x4#4).closeGroup

/-- `TD_i` (rule R128): stored with its protocol number, group `i` recorded, and group `i + 1` begun with the mask `y`. -/
def AtrWork.charTd (y t : Nibble) (w : AtrWork) : AtrWork :=
  w.consume .td fun w =>
    { w.advance (.td w.idx) 0x8#4 with
      groups := w.groups ++ [{ w.group with td := some (ofNibbles y t), protocol := some t }],
      group := AtrGroup.empty, anyNonT0 := w.nonT0After t, mask := y, idx := w.idx + 1 }.closeGroup

/-- The historical bytes (rule R131); `"hb"` is listed once, and only if there are any (rule R135). -/
def AtrWork.charHb (vs : List Byte) (w : AtrWork) : AtrWork :=
  w.consume (.hb vs.length) fun w =>
    { w with hist := vs, cur := w.cur + vs.length,
             order := if vs.isEmpty then w.order else w.order ++ [.hb],
             phase := if w.anyNonT0 then .tck else .final }

/-- TCK (rule R132): stored as read and never checked (rule R133). -/
def AtrWork.charTck (c : Byte) (w : AtrWork) : AtrWork :=
  w.consume .tck fun w =>
    { w with tck := some c, cur := w.cur + 1, order := w.order ++ [.tck], phase := .final }

/-! ### The run of a whole ATR -/

/-- The row whose character stands at the awaited position: none when nothing is awaited or the bytes are not there. -/
def AtrWork.fetch (w : AtrWork) : Option Instr :=
  w.place.bind fun slot => (decode (.bytes slot (w.bytesAt slot))).toOption

/-- What a row does to the working variables; the rows that are no ATR characters do nothing to them. -/
def AtrWork.row (cfg : Config) (w : AtrWork) : Instr → AtrWork
  | .atrTsDirect => w.charTs .direct
  | .atrTsInverse => w.charTs .inverse
  | .atrTsIllegal _ => w.charBadTs
  | .atrT0 y k => w.charT0 y k
  | .atrTa1 fi di => w.charTa1 cfg fi di
  | .atrTaI v => w.charTa v
  | .atrTbI v => w.charTb v
  | .atrTcI v => w.charTc v
  | .atrTdI y t => w.charTd y t
  | .atrHb vs => w.charHb vs
  | .atrTck c => w.charTck c
  | .decodeAtr _ => w
  | .exchange _ _ => w
  | .describeSw _ => w
  | .describeTransport _ => w
  | .apduCase1 _ _ _ _ => w
  | .apduCase2 _ _ _ _ _ => w
  | .apduCase3 _ _ _ _ _ => w
  | .apduCase4 _ _ _ _ _ _ => w
  | .getResponse _ => w
  | .swSuccess => w
  | .swMoreData _ => w
  | .swOther _ _ => w
  | .responseShort _ => w
  | .response _ _ _ => w

/-- The bytes awaited are not there: the check of the position gives the error (rules R130 to R132). -/
def AtrWork.failShort (w : AtrWork) : AtrWork :=
  match w.place.bind w.shortfall with
  | some r => w.fail r
  | none => w

/-- One character, or the error of its absence. -/
def AtrWork.tick (cfg : Config) (w : AtrWork) : AtrWork :=
  match w.fetch with
  | some i => w.row cfg i
  | none => w.failShort

/-- At most `fuel` characters. -/
def AtrWork.run (cfg : Config) : Nat → AtrWork → AtrWork
  | 0, w => w
  | fuel + 1, w => if w.place = none then w else AtrWork.run cfg fuel (w.tick cfg)

/-- Steps 7 and 8 (rules R134, R140): the exact-length check, then the record. -/
def AtrWork.result (w : AtrWork) : Except Malformed AtrRecord :=
  match w.error with
  | some r => .error r
  | none =>
    if w.cur = w.raw.length then
      .ok { initialCharacter := w.conv, formatByte := w.t0, interfaceGroups := w.groups, historicalBytes := w.hist,
            checkByte := w.tck, fieldOrder := w.order, fi := w.fi, di := w.di }
    else .error .trailingOrMissing

/-- DECODE_ATR on `raw`, all its characters in one step (rules R39, R120). TS, T0, the historical bytes and TCK are four rows,
and every other row consumes a byte after T0, so `raw.length + 2` rows are enough. -/
def runAtr (cfg : Config) (raw : List Byte) : Except Malformed AtrRecord :=
  (AtrWork.run cfg (raw.length + 2) (AtrWork.start raw)).result

/-- The decode under way is finished: its result is delivered and its variables are gone (rule R39). -/
def State.finishAtr (s : State) : State := (s.deliver (.atr s.atrd.result)).withAtrd AtrWork.idle

/-! ### The meanings -/

/-- DECODE_ATR (rule R120): one atomic step that writes no state and delivers its result at once (rules R143, R257, R280). -/
def execDecodeAtr (raw : List Byte) (s : State) : Out := .next (s.deliver (.atr (runAtr s.cfg raw)))

/-- ATR_TS_DIRECT (rule R122). -/
def execAtrTsDirect (s : State) : Out := .next (s.withAtrd (s.atrd.charTs .direct))

/-- ATR_TS_INVERSE (rules R122, R137). -/
def execAtrTsInverse (s : State) : Out := .next (s.withAtrd (s.atrd.charTs .inverse))

/-- ATR_TS_ILLEGAL (rules R82, R122): every such value gives `BAD_TS`. -/
def execAtrTsIllegal (_ts : Byte) (s : State) : Out := .next (s.withAtrd s.atrd.charBadTs)

/-- ATR_T0 (rule R123). -/
def execAtrT0 (y k : Nibble) (s : State) : Out := .next (s.withAtrd (s.atrd.charT0 y k))

/-- ATR_TA1 (rules R125, R138). -/
def execAtrTa1 (fi di : Nibble) (s : State) : Out := .next (s.withAtrd (s.atrd.charTa1 s.cfg fi di))

/-- ATR_TA_i (rule R125). -/
def execAtrTaI (v : Byte) (s : State) : Out := .next (s.withAtrd (s.atrd.charTa v))

/-- ATR_TB_i (rule R126). -/
def execAtrTbI (v : Byte) (s : State) : Out := .next (s.withAtrd (s.atrd.charTb v))

/-- ATR_TC_i (rule R127). -/
def execAtrTcI (v : Byte) (s : State) : Out := .next (s.withAtrd (s.atrd.charTc v))

/-- ATR_TD_i (rule R128). -/
def execAtrTdI (y t : Nibble) (s : State) : Out := .next (s.withAtrd (s.atrd.charTd y t))

/-- ATR_HB (rule R131). -/
def execAtrHb (vs : List Byte) (s : State) : Out := .next (s.withAtrd (s.atrd.charHb vs))

/-- ATR_TCK (rule R132). -/
def execAtrTck (c : Byte) (s : State) : Out := .next (s.withAtrd (s.atrd.charTck c))

end Sys2Proof.Machine
end

