-- ==== Sys2Proof/Machine/Catalog.lean ====
section
/-! DEFINITION. The status-word classifier and catalog unit SWC (spec/42_status_catalog.md): `classify` and the two DESCRIBE
requests. SWC holds no state (rule R43). -/

namespace Sys2Proof.Machine

open Sys2Proof

/-- The four classes of rule R200. -/
inductive SwClass where
  | success
  | moreDataAvailable (count : Byte)
  | warningOrError (d : Description)
  | unknown
  deriving DecidableEq, Repr

/-- `classify(sw1, sw2)`: the first of rules R201 to R204 that matches (rule R200, decision D28). -/
def classify (cfg : Config) (sw1 sw2 : Byte) : SwClass :=
  if code16 sw1 sw2 = 0x9000#16 then .success
  else if sw1 = 0x61#8 then .moreDataAvailable sw2
  else
    match swCatalogAt cfg (code16 sw1 sw2) with
    | some d => .warningOrError d
    | none => .unknown

/-- DESCRIBE_SW (rule R206): served at any time, no state written (rule R257). -/
def execDescribeSw (code : Code32) (s : State) : Out :=
  .next (s.deliver (.description (describeSwResult s.cfg code)))

/-- DESCRIBE_TRANSPORT (rule R207): every 32-bit value is a legal key, and only `TRANSPORT_CATALOG` is read (rule R208). -/
def execDescribeTransport (code : Code32) (s : State) : Out :=
  .next (s.deliver (.description (transportCatalogAt s.cfg code)))

end Sys2Proof.Machine
end

