-- ==== Sys2Proof/Machine/Exchange.lean ====
section
/-! DEFINITION. The APDU exchange engine XE (spec/41_exchange_engine.md): the meanings of EXCHANGE, of the command frames, of
GET_RESPONSE, of the responses and of the status words. The steps that have no row of their own (issue, transport failure,
delivery) are in Machine/Ops.lean, and Machine/Schedule.lean says when they are taken. -/

namespace Sys2Proof.Machine

open Sys2Proof

/-! ### Command frames -/

/-- A command frame is written at acceptance, in `Idle` (rules R162, R163); at any other time XE takes none (rule R184).
That a frame row run alone writes the frame only is the model's choice (notes/assumptions/18). -/
def State.putCommandFrame (s : State) (frame : List Byte) : State :=
  if s.xe.state = .idle then s.withXe (s.xe.putFrame frame) else s

/-- APDU_CASE1: `CLA INS P1 P2` (rules R91, R162). -/
def execApduCase1 (cla ins p1 p2 : Byte) (s : State) : Out :=
  .next (s.putCommandFrame (apduFrame cla ins p1 p2 [] none))

/-- APDU_CASE2: `CLA INS P1 P2 Le` (rules R91, R162); Le `0x00` is sent as `0x00` (rule R100). -/
def execApduCase2 (cla ins p1 p2 le : Byte) (s : State) : Out :=
  .next (s.putCommandFrame (apduFrame cla ins p1 p2 [] (some le)))

/-- APDU_CASE3: `CLA INS P1 P2 Lc Data` (rules R91, R162). -/
def execApduCase3 (cla ins p1 p2 : Byte) (data : List Byte) (s : State) : Out :=
  .next (s.putCommandFrame (apduFrame cla ins p1 p2 data none))

/-- APDU_CASE4: `CLA INS P1 P2 Lc Data Le` (rules R91, R162). -/
def execApduCase4 (cla ins p1 p2 : Byte) (data : List Byte) (le : Byte) (s : State) : Out :=
  .next (s.putCommandFrame (apduFrame cla ins p1 p2 data (some le)))

/-! ### EXCHANGE -/

/-- Acceptance in `Idle`: the range check of rule R161, or the registers of rules R162 and R163. No transport call is made. -/
def State.acceptExchange (s : State) (session : Session) (cmd : ApduCommand) : State :=
  match firstInvalidField cmd with
  | some f => s.enterError (.invalidParameter f)
  | none => s.withXe ((s.xe.putFrame (serialize cmd)).accept session)

/-- EXCHANGE (rule R160): accepted when XE is `Idle`, otherwise it waits at the host port (rule R184). -/
def execExchange (session : Session) (cmd : ApduCommand) (s : State) : Out :=
  .next (if s.xe.state = .idle then s.acceptExchange session cmd else s.enqueue session cmd)

/-! ### Continuation -/

/-- GET_RESPONSE: in `AwaitingContinuation` the cap check of rule R171, then the frame of rule R172. XE synthesizes the frame
in no other state (rule R176), and nothing is written there (notes/assumptions/4). The step runs it with the SW2 in `XE.sw`; that
the row run alone sends its own `l`, whatever `XE.sw` holds, is the model's choice (notes/assumptions/19). -/
def execGetResponse (l : Byte) (s : State) : Out :=
  .next (if s.xe.state = .awaitingContinuation then
      if capReached s.cfg s.xe then s.enterError .tooManyContinuations
      else s.withXe (s.xe.continueWith l)
    else s)

/-! ### Status words -/

/-- SW_SUCCESS (rule R168). A status word is sorted in `Sending`, within the step that takes the response (rule R167);
elsewhere nothing is written (notes/assumptions/4). Run alone in `Sending`, with no response being taken, it moves XE and leaves
`XE.txPending` and `XE.sw`: the model's choice (notes/assumptions/18, notes/assumptions/19). -/
def execSwSuccess (s : State) : Out :=
  .next (if s.xe.state = .sending then s.withXe (s.xe.moveTo .done) else s)

/-- SW_MORE_DATA (rule R169): whatever `sw2` is, which rule R167 has kept in `XE.sw`. Run alone in `Sending` it moves XE and leaves
`XE.txPending` and `XE.sw`: the model's choice (notes/assumptions/18, notes/assumptions/19). -/
def execSwMoreData (_sw2 : Byte) (s : State) : Out :=
  .next (if s.xe.state = .sending then s.withXe (s.xe.moveTo .awaitingContinuation) else s)

/-- SW_OTHER (rule R170): `CardStatus` with the catalog's description, if it has one (rules R205, R211). Run
alone in `Sending` it fails the exchange with its own bytes: the model's choice (notes/assumptions/18, notes/assumptions/19). -/
def execSwOther (sw1 sw2 : Byte) (s : State) : Out :=
  .next (if s.xe.state = .sending then
      s.enterError (.cardStatus sw1 sw2 (swCatalogAt s.cfg (code16 sw1 sw2)))
    else s)

/-- Rules R168 to R170, tried in the order of rule R95. -/
def State.sortStatus (s : State) (sw1 sw2 : Byte) : Out :=
  if sw1 = 0x90#8 ∧ sw2 = 0x00#8 then execSwSuccess s
  else if sw1 = 0x61#8 then execSwMoreData sw2 s
  else execSwOther sw1 sw2 s

/-! ### Responses -/

/-- RESPONSE_SHORT (rule R166): `EmptyResponse`; `XE.body` and `XE.sw` stay. An answer XE does not wait for is discarded
(rule R271). -/
def execResponseShort (_b : Option Byte) (s : State) : Out :=
  .next (if s.xe.waitsForAnswer then s.enterError .emptyResponse else s)

/-- RESPONSE (rule R167): split and append, then the status word is sorted within the same step. An answer XE does not wait for
is discarded (rule R271). -/
def execResponse (pre : List Byte) (sw1 sw2 : Byte) (s : State) : Out :=
  if s.xe.waitsForAnswer then (s.withXe (s.xe.takeResponse pre sw1 sw2)).sortStatus sw1 sw2 else .next s

end Sys2Proof.Machine
end

