-- ==== Sys2Proof/Machine/Dispatch.lean ====
section
/-! DEFINITION. exec: one arm per row of spec/opcode_table.json. -/

namespace Sys2Proof.Machine

open Sys2Proof

/-- The meaning of an instruction. -/
def exec (i : Instr) (s : State) : Host.Outcome State Fault Refusal :=
  match i with
  | .decodeAtr raw => Sys2Proof.Machine.execDecodeAtr raw s
  | .exchange session cmd => Sys2Proof.Machine.execExchange session cmd s
  | .describeSw code => Sys2Proof.Machine.execDescribeSw code s
  | .describeTransport code => Sys2Proof.Machine.execDescribeTransport code s
  | .atrTsDirect => Sys2Proof.Machine.execAtrTsDirect s
  | .atrTsInverse => Sys2Proof.Machine.execAtrTsInverse s
  | .atrTsIllegal ts => Sys2Proof.Machine.execAtrTsIllegal ts s
  | .atrT0 y k => Sys2Proof.Machine.execAtrT0 y k s
  | .atrTa1 fi di => Sys2Proof.Machine.execAtrTa1 fi di s
  | .atrTaI v => Sys2Proof.Machine.execAtrTaI v s
  | .atrTbI v => Sys2Proof.Machine.execAtrTbI v s
  | .atrTcI v => Sys2Proof.Machine.execAtrTcI v s
  | .atrTdI y t => Sys2Proof.Machine.execAtrTdI y t s
  | .atrHb vs => Sys2Proof.Machine.execAtrHb vs s
  | .atrTck c => Sys2Proof.Machine.execAtrTck c s
  | .apduCase1 cla ins p1 p2 => Sys2Proof.Machine.execApduCase1 cla ins p1 p2 s
  | .apduCase2 cla ins p1 p2 le => Sys2Proof.Machine.execApduCase2 cla ins p1 p2 le s
  | .apduCase3 cla ins p1 p2 data => Sys2Proof.Machine.execApduCase3 cla ins p1 p2 data s
  | .apduCase4 cla ins p1 p2 data le => Sys2Proof.Machine.execApduCase4 cla ins p1 p2 data le s
  | .getResponse l => Sys2Proof.Machine.execGetResponse l s
  | .swSuccess => Sys2Proof.Machine.execSwSuccess s
  | .swMoreData sw2 => Sys2Proof.Machine.execSwMoreData sw2 s
  | .swOther sw1 sw2 => Sys2Proof.Machine.execSwOther sw1 sw2 s
  | .responseShort b => Sys2Proof.Machine.execResponseShort b s
  | .response pre sw1 sw2 => Sys2Proof.Machine.execResponse pre sw1 sw2 s

end Sys2Proof.Machine
end

