-- ==== Sys2Proof/Machine/Schedule.lean ====
section
/-! DEFINITION. What the block does next: the act at its boundary that comes next, or XE's own step. The block has no program
counter; its sequencer is `XE.state` with `XE.txPending` (rule R45). -/

namespace Sys2Proof.Machine

open Sys2Proof

/-- What one step of the block is. -/
inductive Action where
  /-- It runs an instruction, in a state from which the event that brings it has been taken. -/
  | run (i : Instr) (s : State)
  /-- It goes to a state by a rule that no row of the opcode table names, or it waits. -/
  | goTo (s : State)
  /-- It is in a state no rule reaches. -/
  | stop (f : Fault)
  deriving DecidableEq, Repr

/-- XE's own step (the `step when` clauses of rule R160, and acceptance of a waiting request, rule R184). Where nothing is
enabled XE waits: in `Idle` for a request, in `Sending` for the transport's answer, for ever if none comes (rule R180). -/
def xeAction (s : State) : Action :=
  match s.xe.state with
  | .idle =>
    match s.pickWaiting with
    | some ((session, cmd), s') => .run (.exchange session cmd) s'
    | none => .goTo s
  | .sending =>
    if s.xe.txPending then .goTo s
    else
      match s.xe.session with
      | some session => .goTo (s.issue session)
      | none => .stop .sendingWithoutSession
  | .awaitingContinuation =>
    match s.xe.sw with
    | some sw => if sw.sw1 = 0x61#8 then .run (.getResponse sw.sw2) s else .stop .continuationWithoutStatus
    | none => .stop .continuationWithoutStatus
  | .done =>
    match s.xe.sw with
    | some sw => .goTo (s.deliverOk sw)
    | none => .stop .doneWithoutStatus
  | .failed =>
    match s.xe.error with
    | some e => .goTo (s.leaveError e)
    | none => .stop .failedWithoutError

/-- The transport's answer to a call (rules R164 to R167, R271). -/
def answerAction (s : State) (call : Nat) : Answer → Action
  | .bytes r => if s.expects call then .run (decodeResponse r) s else .goTo s
  | .failure info => if s.expects call then .goTo (s.transportFailed info) else .goTo s

/-- An act at the boundary, already taken from the list of what is to happen. -/
def eventAction (s : State) : Event → Action
  | .request r => .run r.instr s
  | .answer call a => answerAction s call a
  | .reset => .goTo s.resetBlock
  | .xe => xeAction s

/-- The next character of a decode inside its step (rule R39): its row, the error of its absence, or the end. -/
def atrAction (s : State) : Action :=
  match s.atrd.fetch with
  | some i => .run i s
  | none =>
    match s.atrd.place with
    | some _ => .goTo (s.withAtrd s.atrd.failShort)
    | none => .goTo s.finishAtr

/-- What the block does next. When the outside does nothing more, XE goes on alone (rule R279). -/
def nextAction (s : State) : Action :=
  if s.atrd.active then atrAction s
  else
    match s.events with
    | [] => xeAction s
    | e :: es => eventAction (s.withEvents es) e

/-! ### Placing an instruction where the next step runs it -/

/-- A command with the fields of a frame, as a host would issue it. -/
def commandOf (cla ins p1 p2 : Byte) (data : List Byte) (le : Option Byte) : ApduCommand :=
  { cla := cla.toNat, ins := ins.toNat, p1 := p1.toNat, p2 := p2.toNat,
    data := if data.isEmpty then none else some (data.map BitVec.toNat), le := le.map BitVec.toNat }

/-- The state in which a decode of `raw` is about to read its first character. -/
def State.placeAtr (s : State) (raw : List Byte) : State := s.withAtrd (AtrWork.start raw)

/-- The state in which XE waits for an answer and the transport is about to give `r`. -/
def State.placeResponse (s : State) (r : List Byte) : State :=
  { s with xe := { s.xe with state := .sending, txPending := true }, atrd := AtrWork.idle,
           events := .answer s.calls.length (.bytes r) :: s.events }

/-- The state in which XE is `Idle` and the host is about to issue `r`. -/
def State.placeRequest (s : State) (r : Request) : State :=
  { s with xe := { s.xe with state := .idle }, atrd := AtrWork.idle, events := .request r :: s.events }

/-- The state in which XE has just taken a `61 l` and is about to take its step. -/
def State.placeContinuation (s : State) (l : Byte) : State :=
  { s with xe := { s.xe with state := .awaitingContinuation, txPending := false, sw := some { sw1 := 0x61#8, sw2 := l } },
           atrd := AtrWork.idle, events := .xe :: s.events }

/-- Place an instruction read from a table word (notes/assumptions/8): a TS character at the start of a decode of the ATR
`TS 00`; a status word as the two bytes of a response; a frame as the EXCHANGE that has it; GET RESPONSE after the `61xx`
that calls for it. -/
def State.placeInstr (s : State) : Instr → State
  | .decodeAtr raw => s.placeRequest (.decodeAtr raw)
  | .exchange session cmd => s.placeRequest (.exchange session cmd)
  | .describeSw code => s.placeRequest (.describeSw code)
  | .describeTransport code => s.placeRequest (.describeTransport code)
  | .atrTsDirect => s.placeAtr [0x3B#8, 0x00#8]
  | .atrTsInverse => s.placeAtr [0x3F#8, 0x00#8]
  | .atrTsIllegal ts => s.placeAtr [ts, 0x00#8]
  | .atrT0 _ _ => s
  | .atrTa1 _ _ => s
  | .atrTaI _ => s
  | .atrTbI _ => s
  | .atrTcI _ => s
  | .atrTdI _ _ => s
  | .atrHb _ => s
  | .atrTck _ => s
  | .apduCase1 cla ins p1 p2 => s.placeRequest (.exchange default (commandOf cla ins p1 p2 [] none))
  | .apduCase2 cla ins p1 p2 le => s.placeRequest (.exchange default (commandOf cla ins p1 p2 [] (some le)))
  | .apduCase3 cla ins p1 p2 data => s.placeRequest (.exchange default (commandOf cla ins p1 p2 data none))
  | .apduCase4 cla ins p1 p2 data le => s.placeRequest (.exchange default (commandOf cla ins p1 p2 data (some le)))
  | .getResponse l => s.placeContinuation l
  | .swSuccess => s.placeResponse [0x90#8, 0x00#8]
  | .swMoreData sw2 => s.placeResponse [0x61#8, sw2]
  | .swOther sw1 sw2 => s.placeResponse [sw1, sw2]
  | .responseShort b => s.placeResponse b.toList
  | .response pre sw1 sw2 => s.placeResponse (pre ++ [sw1, sw2])

end Sys2Proof.Machine
end

