-- ==== Sys2Proof/Machine/Step.lean ====
section
/-! DEFINITION. One step of the block, and the placing of a table word where the next step runs it. -/

namespace Sys2Proof.Machine

open Sys2Proof

/-- The instruction the next step runs, with the state it is run in. -/
def fetch (s : State) : Option (Instr × State) :=
  match nextAction s with
  | .run i s' => some (i, s')
  | .goTo _ => none
  | .stop _ => none

/-- One step (rule R160): one host request, one answer of the transport, one reset, or one step of XE's own. -/
def step (s : State) : Host.Outcome State Fault Refusal :=
  match nextAction s with
  | .run i s' => exec i s'
  | .goTo s' => .next s'
  | .stop f => .fault f

/-- `s` with the table word `w` of `nbits` bits placed where the next step runs it (notes/assumptions/8). -/
def State.withFetchWord (s : State) (nbits w : Nat) : State :=
  match decodeTableWord nbits w with
  | some i => s.placeInstr i
  | none => s

end Sys2Proof.Machine
end

