-- ==== Sys2Proof/Machine/AtrPseudocode.lean ====
section
/-! DEFINITION. Rule R120's pseudocode of DECODE_ATR, transcribed as it stands, and the re-serialization of rule R141. The
machine does not run it: its DECODE_ATR runs the character rows one by one (`Machine.runAtr`). That the two agree on every
input is an obligation. -/

namespace Sys2Proof.Machine

open Sys2Proof

/-- The variables the loop of rule R120 carries from one consumption to the next. -/
structure AtrCursor where
  cur : Nat
  order : List FieldId
  deriving DecidableEq, Repr

/-- `consume(name)` of rule R120, with the truncation check of rule R130 before the byte is read. -/
def consumeByte (raw : List Byte) (k : Nat) (anyNonT0 : Bool) (name : FieldId) (c : AtrCursor) :
    Except Malformed (Byte × AtrCursor) :=
  if c.cur + 1 + k + (if anyNonT0 then 1 else 0) > raw.length then .error .truncated
  else .ok (raw.getD c.cur 0x00#8, { cur := c.cur + 1, order := c.order ++ [name] })

/-- `if mask[b] = 1: g.x <- some consume(name)`. -/
def consumeIf (present : Bool) (raw : List Byte) (k : Nat) (anyNonT0 : Bool) (name : FieldId) (c : AtrCursor) :
    Except Malformed (Option Byte × AtrCursor) :=
  if present then (consumeByte raw k anyNonT0 name c).map fun p => (some p.1, p.2) else .ok (none, c)

/-- What step 4 hands to step 5. -/
structure AtrLoopEnd where
  groups : List AtrGroup
  anyNonT0 : Bool
  at_ : AtrCursor
  deriving DecidableEq, Repr

/-- The loop of step 4 (rules R124 to R129). Every iteration but the last consumes a TD, so `raw.length` iterations are enough. -/
def groupLoop (raw : List Byte) (k : Nat) :
    Nat → Nat → Nibble → Bool → List AtrGroup → AtrCursor → Except Malformed AtrLoopEnd
  | 0, _, _, _, _, _ => .error .truncated
  | fuel + 1, i, mask, anyNonT0, groups, c => do
    let (ta, c) ← consumeIf (mask.getLsbD 0) raw k anyNonT0 (.ta i) c
    let (tb, c) ← consumeIf (mask.getLsbD 1) raw k anyNonT0 (.tb i) c
    let (tc, c) ← consumeIf (mask.getLsbD 2) raw k anyNonT0 (.tc i) c
    if mask.getLsbD 3 then
      let (td, c) ← consumeByte raw k anyNonT0 (.td i) c
      let g : AtrGroup := { ta := ta, tb := tb, tc := tc, td := some td, protocol := some (loNibble td) }
      groupLoop raw k fuel (i + 1) (hiNibble td) (anyNonT0 || loNibble td != 0#4) (groups ++ [g]) c
    else
      .ok { groups := groups ++ [{ ta := ta, tb := tb, tc := tc, td := none, protocol := none }],
            anyNonT0 := anyNonT0, at_ := c }

/-- Step 2 (rule R122). -/
def conventionOf (ts : Byte) : Except Malformed Convention :=
  if ts = 0x3B#8 then .ok .direct else if ts = 0x3F#8 then .ok .inverse else .error .badTs

/-- DECODE_ATR(raw) as rule R120 writes it. -/
def decodeAtr (cfg : Config) (raw : List Byte) : Except Malformed AtrRecord := do
  let n := raw.length
  if n < 2 then .error .tooShort
  let conv ← conventionOf (raw.getD 0 0x00#8)
  let t0 := raw.getD 1 0x00#8
  let k := (loNibble t0).toNat
  let e ← groupLoop raw k n 1 (hiNibble t0) false [] { cur := 2, order := [.ts, .t0] }
  let cur := e.at_.cur
  if cur + k > n then .error .trailingOrMissing
  let hist := (raw.drop cur).take k
  let cur := cur + k
  let order := if k ≥ 1 then e.at_.order ++ [.hb] else e.at_.order
  if e.anyNonT0 ∧ cur + 1 > n then .error .trailingOrMissing
  let tck := if e.anyNonT0 then some (raw.getD cur 0x00#8) else none
  let order := if e.anyNonT0 then order ++ [.tck] else order
  let cur := if e.anyNonT0 then cur + 1 else cur
  if cur ≠ n then .error .trailingOrMissing
  let ta1 := (e.groups.head?.bind fun g => g.ta)
  .ok { initialCharacter := conv, formatByte := t0, interfaceGroups := e.groups, historicalBytes := hist,
        checkByte := tck, fieldOrder := order,
        fi := ta1.map fun a => fiOf cfg (hiNibble a), di := ta1.map fun a => diOf cfg (loNibble a) }

/-! ### Re-serialization (rule R141) -/

/-- The TS byte of a convention (rule R82). -/
def Convention.ts : Convention → Byte
  | .direct => 0x3B#8
  | .inverse => 0x3F#8

/-- The bytes of one field of a record. -/
def AtrRecord.fieldBytes (r : AtrRecord) : FieldId → List Byte
  | .ts => [r.initialCharacter.ts]
  | .t0 => [r.formatByte]
  | .ta i => ((r.interfaceGroups[i - 1]?).bind fun g => g.ta).toList
  | .tb i => ((r.interfaceGroups[i - 1]?).bind fun g => g.tb).toList
  | .tc i => ((r.interfaceGroups[i - 1]?).bind fun g => g.tc).toList
  | .td i => ((r.interfaceGroups[i - 1]?).bind fun g => g.td).toList
  | .hb => r.historicalBytes
  | .tck => r.checkByte.toList

/-- The recognized fields in `fieldOrder`. -/
def AtrRecord.reserialize (r : AtrRecord) : List Byte := r.fieldOrder.flatMap r.fieldBytes

/-- How many characters a group took. -/
def AtrGroup.size (g : AtrGroup) : Nat :=
  g.ta.toList.length + g.tb.toList.length + g.tc.toList.length + g.td.toList.length

/-- The right side of the length law of rule R141. -/
def AtrRecord.lawLength (r : AtrRecord) : Nat :=
  2 + (r.interfaceGroups.map AtrGroup.size).sum + r.historicalBytes.length + r.checkByte.toList.length

end Sys2Proof.Machine
end

