-- ==== Sys2Proof/Machine/Codes.lean ====
section
/-! DEFINITION. The binary codes the spec gives a realisation that needs them: `XE.state` (rule R49) and the error kinds
(rule R240). No rule depends on a code. -/

namespace Sys2Proof.Machine

open Sys2Proof

/-- The 3-bit code of `XE.state` (rule R49). -/
def XeState.code : XeState → BitVec 3
  | .idle => 0#3
  | .sending => 1#3
  | .awaitingContinuation => 2#3
  | .done => 3#3
  | .failed => 4#3

/-- The state a code stands for; the codes 5 to 7 are a fault, which no rule reaches (rule R49, I14). -/
def XeState.ofCode (c : BitVec 3) : Except Fault XeState :=
  if c = 0#3 then .ok .idle
  else if c = 1#3 then .ok .sending
  else if c = 2#3 then .ok .awaitingContinuation
  else if c = 3#3 then .ok .done
  else if c = 4#3 then .ok .failed
  else .error .illegalStateCode

/-- The code of a decode error (rule R240). -/
def Malformed.code : Malformed → Byte
  | .tooShort => 0x01#8
  | .badTs => 0x02#8
  | .truncated => 0x03#8
  | .trailingOrMissing => 0x04#8

/-- The number of the field an `InvalidParameter` names (rule R240). -/
def CmdField.code : CmdField → Nat
  | .cla => 0
  | .ins => 1
  | .p1 => 2
  | .p2 => 3
  | .data => 4
  | .le => 5

/-- The code of an exchange error (rule R240). -/
def XeError.code : XeError → Byte
  | .invalidParameter _ => 0x10#8
  | .emptyResponse => 0x20#8
  | .cardStatus _ _ _ => 0x21#8
  | .tooManyContinuations => 0x22#8
  | .transportFailure _ => 0x23#8

/-- The code a result register would hold: `0x00` for no error (rule R240). -/
def HostResult.code : HostResult → Byte
  | .atr (.ok _) => 0x00#8
  | .atr (.error r) => r.code
  | .exchange (.ok _) => 0x00#8
  | .exchange (.error e) => e.code
  | .description _ => 0x00#8

/-- The spelling of a field identifier (rule R135): the group index in decimal without leading zeros. -/
def FieldId.spell : FieldId → String
  | .ts => "TS"
  | .t0 => "T0"
  | .ta i => "TA" ++ toString i
  | .tb i => "TB" ++ toString i
  | .tc i => "TC" ++ toString i
  | .td i => "TD" ++ toString i
  | .hb => "hb"
  | .tck => "TCK"

/-- The host's rendering of a description lookup (rule R210). -/
def renderDescription : Option Description → String
  | some d => d.text
  | none => "not found"

end Sys2Proof.Machine
end

