-- ==== Sys2Proof/Machine/HostText.lean ====
section
/-! DEFINITION. The host's text notation (spec/43_host_text_notation.md): the byte notation of rules R220 to R226 and the
transaction scripts of rule R227 (Machine/Script.lean runs them). It is parsed once, at the boundary;
the block never receives text (rule R224). -/

namespace Sys2Proof.Machine

open Sys2Proof

/-! ### Byte notation -/

/-- `ParseError(token)`: the first token that is not two hexadecimal digits (rule R223). It has no code in the block. -/
structure ParseError where
  token : String
  deriving DecidableEq, Repr

/-- The value of a hexadecimal digit, case ignored (rule R222). -/
def hexDigit (c : Char) : Option Nat :=
  if '0' ≤ c ∧ c ≤ '9' then some (c.toNat - '0'.toNat)
  else if 'a' ≤ c ∧ c ≤ 'f' then some (c.toNat - 'a'.toNat + 10)
  else if 'A' ≤ c ∧ c ≤ 'F' then some (c.toNat - 'A'.toNat + 10)
  else none

/-- Split at runs of ASCII spaces; `cur` holds the token being read, last character first. Every other character, tab and
newline included, belongs to a token (rule R221). -/
def tokensFrom : List Char → List Char → List (List Char)
  | cur, [] => if cur.isEmpty then [] else [cur.reverse]
  | cur, c :: cs =>
    if c = ' ' then (if cur.isEmpty then tokensFrom [] cs else cur.reverse :: tokensFrom [] cs)
    else tokensFrom (c :: cur) cs

/-- The tokens of a text (rule R221). -/
def tokens (text : List Char) : List (List Char) := tokensFrom [] text

/-- One token: exactly two hexadecimal digits, value `16 * hi + lo` (rule R222). -/
def parseToken (t : List Char) : Except ParseError Byte :=
  match t with
  | [h, l] =>
    match hexDigit h, hexDigit l with
    | some hi, some lo => .ok (BitVec.ofNat 8 (16 * hi + lo))
    | _, _ => .error { token := String.ofList t }
  | _ => .error { token := String.ofList t }

/-- The bytes of a list of tokens, left to right; the first invalid token stops it and no byte is produced (rules R220, R223). -/
def parseTokens : List (List Char) → Except ParseError (List Byte)
  | [] => .ok []
  | t :: ts =>
    match parseToken t with
    | .error e => .error e
    | .ok b =>
      match parseTokens ts with
      | .error e => .error e
      | .ok bs => .ok (b :: bs)

/-- The byte notation: `"00 A4 04"` gives `[0x00, 0xA4, 0x04]` (rules R220 to R226). -/
def parseBytes (text : String) : Except ParseError (List Byte) := parseTokens (tokens text.toList)

/-- A hexadecimal digit in the notation's capital form. -/
def hexChar (n : Nibble) : Char := "0123456789ABCDEF".toList.getD n.toNat '0'

/-- A byte as a token. -/
def renderByte (b : Byte) : List Char := [hexChar (hiNibble b), hexChar (loNibble b)]

/-- A byte sequence in the notation, one space between tokens (rule R220). -/
def renderBytes : List Byte → List Char
  | [] => []
  | [b] => renderByte b
  | b :: bs => renderByte b ++ ' ' :: renderBytes bs

/-! ### Transaction scripts -/

/-- One line of a script (rule R227). -/
inductive ScriptLine where
  /-- `MAX_CONTINUATIONS=<n>`. -/
  | maxContinuations (n : Nat)
  /-- A host request. -/
  | request (r : Request)
  /-- `T<n>: ...`, the transport's answer to the `n`-th call of the EXCHANGE above it. -/
  | transport (n : Nat) (a : Answer)
  deriving DecidableEq, Repr

/-- A host request of a script, with the transport's answers to the calls of that request: the first answers the first call
(rule R227). -/
structure Transaction where
  request : Request
  answers : List Answer
  deriving DecidableEq, Repr

/-- A whole script (rule R227). -/
structure Script where
  /-- The `MAX_CONTINUATIONS=<n>` line at the top, if there is one; the parameter is a natural between 0 and 255 (rule R40). -/
  maxContinuations : Option (Fin 256)
  /-- The requests, in order. -/
  transactions : List Transaction
  deriving DecidableEq, Repr

/-- Why a script is no script (rule R227; notes/assumptions/12). -/
inductive ScriptError where
  /-- A byte token is no byte (rule R223). -/
  | badBytes (e : ParseError)
  /-- A line is outside the grammar. -/
  | badLine (line : String)
  /-- `MAX_CONTINUATIONS=<n>` with `n` over 255 (rule R40). -/
  | capOutOfRange (n : Nat)
  /-- A `MAX_CONTINUATIONS` line that is not at the top. -/
  | capNotAtTop (n : Nat)
  /-- A `T<n>` line that stands below no EXCHANGE. -/
  | answerWithoutExchange (n : Nat)
  /-- A `T<n>` line whose number is not the next of its EXCHANGE, counted from 1. -/
  | answerOutOfOrder (n : Nat)
  deriving DecidableEq, Repr

/-- A natural written in hexadecimal, one or more digits. -/
def parseHexFrom (acc : Nat) : List Char → Option Nat
  | [] => some acc
  | c :: cs => (hexDigit c).bind fun d => parseHexFrom (16 * acc + d) cs

/-- A natural written in hexadecimal, one or more digits. -/
def parseHex (cs : List Char) : Option Nat := if cs.isEmpty then none else parseHexFrom 0 cs

/-- A natural written in decimal, one or more digits. -/
def parseDecFrom (acc : Nat) : List Char → Option Nat
  | [] => some acc
  | c :: cs => if '0' ≤ c ∧ c ≤ '9' then parseDecFrom (10 * acc + (c.toNat - '0'.toNat)) cs else none

/-- A natural written in decimal, one or more digits. -/
def parseDec (cs : List Char) : Option Nat := if cs.isEmpty then none else parseDecFrom 0 cs

/-- A DESCRIBE code: one to eight hexadecimal digits (rule R227). -/
def parseCode (cs : List Char) : Option Code32 :=
  if cs.length ≤ 8 then (parseHex cs).map (BitVec.ofNat 32) else none

/-- Split a line at spaces outside quotes; the quotes stay in the token. -/
def wordsFrom (inQuotes : Bool) : List Char → List Char → List (List Char)
  | cur, [] => if cur.isEmpty then [] else [cur.reverse]
  | cur, c :: cs =>
    if c = ' ' ∧ inQuotes = false then
      (if cur.isEmpty then wordsFrom false [] cs else cur.reverse :: wordsFrom false [] cs)
    else wordsFrom (if c = '"' then !inQuotes else inQuotes) (c :: cur) cs

/-- The words of a script line. -/
def lineWords (line : List Char) : List (List Char) := wordsFrom false [] line

/-- The text after a prefix. -/
def afterPrefix : List Char → List Char → Option (List Char)
  | [], cs => some cs
  | _ :: _, [] => none
  | p :: ps, c :: cs => if p = c then afterPrefix ps cs else none

/-- The text between double quotes. -/
def unquote (cs : List Char) : Option (List Char) :=
  match cs with
  | '"' :: rest => if rest.getLast? = some '"' then some rest.dropLast else none
  | _ => none

/-- `"<bytes>"` (rules R220 to R223). -/
def parseQuoted (line : String) (cs : List Char) : Except ScriptError (List Byte) :=
  match unquote cs with
  | none => .error (.badLine line)
  | some text =>
    match parseTokens (tokens text) with
    | .ok bs => .ok bs
    | .error e => .error (.badBytes e)

/-- An optional word `<key><value>` at the head of the words; what is left when it is not there. -/
def takeKey (key : String) (ws : List (List Char)) : Option (List Char) × List (List Char) :=
  match ws with
  | [] => (none, [])
  | w :: rest =>
    match afterPrefix key.toList w with
    | some v => (some v, rest)
    | none => (none, w :: rest)

/-- A required hexadecimal field `<key>=<hh>`. -/
def takeHex (key : String) (ws : List (List Char)) : Option (Nat × List (List Char)) :=
  match takeKey key ws with
  | (some v, rest) => (parseHex v).map fun n => (n, rest)
  | (none, _) => none

/-- `LE=<hh>` at the end of an EXCHANGE line, or nothing. -/
def parseLe (ws : List (List Char)) : Option (Option Nat) :=
  match takeKey "LE=" ws with
  | (none, []) => some none
  | (none, _) => none
  | (some v, []) => (parseHex v).map some
  | (some _, _) => none

/-- The words of an EXCHANGE line after the mnemonic. An absent `h=` or `p=` stands for the names `h` and `p`; an absent
`DATA=` or `LE=` means `none` (rule R227). -/
def parseExchange (line : String) (ws : List (List Char)) : Except ScriptError Request :=
  let (h, ws) := takeKey "h=" ws
  let (p, ws) := takeKey "p=" ws
  let header := do
    let (cla, ws) ← takeHex "CLA=" ws
    let (ins, ws) ← takeHex "INS=" ws
    let (p1, ws) ← takeHex "P1=" ws
    let (p2, ws) ← takeHex "P2=" ws
    let (data, ws) := takeKey "DATA=" ws
    let le ← parseLe ws
    some (cla, ins, p1, p2, data, le)
  match header with
  | none => .error (.badLine line)
  | some (cla, ins, p1, p2, data, le) =>
    let session : Session :=
      { handle := { name := String.ofList (h.getD ['h']) }, protocolId := { name := String.ofList (p.getD ['p']) } }
    let command (d : Option (List Nat)) : ApduCommand := { cla := cla, ins := ins, p1 := p1, p2 := p2, data := d, le := le }
    match data with
    | none => .ok (.exchange session (command none))
    | some q =>
      match parseQuoted line q with
      | .ok bs => .ok (.exchange session (command (some (bs.map BitVec.toNat))))
      | .error e => .error e

/-- The words of a transport line after `T<n>:`. -/
def parseAnswer (line : String) (ws : List (List Char)) : Except ScriptError Answer :=
  match ws with
  | [w] =>
    match afterPrefix "FAIL(".toList w with
    | some rest =>
      if rest.getLast? = some ')' then .ok (.failure { name := String.ofList rest.dropLast }) else .error (.badLine line)
    | none => (parseQuoted line w).map .bytes
  | _ => .error (.badLine line)

/-- The number of a transport line's first word `T<n>:`. -/
def transportNumber (w : List Char) : Option Nat :=
  (afterPrefix ['T'] w).bind fun v => if v.getLast? = some ':' then parseDec v.dropLast else none

/-- One line of a script (rule R227). -/
def parseLine (line : String) : Except ScriptError ScriptLine :=
  match lineWords line.toList with
  | [w, v] =>
    if w = "DECODE_ATR".toList then (parseQuoted line v).map fun bs => .request (.decodeAtr bs)
    else if w = "DESCRIBE_SW".toList then
      match parseCode v with
      | some c => .ok (.request (.describeSw c))
      | none => .error (.badLine line)
    else if w = "DESCRIBE_TRANSPORT".toList then
      match parseCode v with
      | some c => .ok (.request (.describeTransport c))
      | none => .error (.badLine line)
    else
      match transportNumber w with
      | some n => (parseAnswer line [v]).map (.transport n)
      | none => .error (.badLine line)
  | [w] =>
    match (afterPrefix "MAX_CONTINUATIONS=".toList w).bind parseDec with
    | some n => .ok (.maxContinuations n)
    | none => .error (.badLine line)
  | w :: ws =>
    if w = "EXCHANGE".toList then (parseExchange line ws).map .request else .error (.badLine line)
  | [] => .error (.badLine line)

/-- The lines of a script, one request or one answer each. -/
def parseLines : List String → Except ScriptError (List ScriptLine)
  | [] => .ok []
  | l :: ls =>
    match parseLine l with
    | .error e => .error e
    | .ok x =>
      match parseLines ls with
      | .error e => .error e
      | .ok xs => .ok (x :: xs)

/-- Whether a request makes transport calls: only an EXCHANGE does (rules R144, R206, R207). -/
def isExchange : Request → Bool
  | .decodeAtr _ => false
  | .exchange _ _ => true
  | .describeSw _ => false
  | .describeTransport _ => false

/-- The lines below the top of a script: a request begins a transaction, and the answers below an EXCHANGE are its own, numbered
from 1 (rule R227). `cur` is the transaction being read. -/
def assembleFrom (cur : Option Transaction) : List ScriptLine → Except ScriptError (List Transaction)
  | [] => .ok cur.toList
  | .maxContinuations n :: _ => .error (.capNotAtTop n)
  | .request r :: ls => (assembleFrom (some { request := r, answers := [] }) ls).map (cur.toList ++ ·)
  | .transport n a :: ls =>
    match cur with
    | none => .error (.answerWithoutExchange n)
    | some tr =>
      if !isExchange tr.request then .error (.answerWithoutExchange n)
      else if n = tr.answers.length + 1 then assembleFrom (some { tr with answers := tr.answers ++ [a] }) ls
      else .error (.answerOutOfOrder n)

/-- A script from its lines: the parameter at the top, then the transactions (rule R227). -/
def assemble : List ScriptLine → Except ScriptError Script
  | .maxContinuations n :: ls =>
    if h : n < 256 then
      (assembleFrom none ls).map fun trs => { maxContinuations := some ⟨n, h⟩, transactions := trs }
    else .error (.capOutOfRange n)
  | ls => (assembleFrom none ls).map fun trs => { maxContinuations := none, transactions := trs }

/-- A script from its text, line by line (rule R227). -/
def parseScript (lines : List String) : Except ScriptError Script :=
  match parseLines lines with
  | .error e => .error e
  | .ok ls => assemble ls

end Sys2Proof.Machine
end

