-- ==== Sys2Proof/Safety.lean ====
section
/-! DEFINITION. What counts as a safe state and a safe run, in the terms the statements use: the invariant of the XE
registers, the bound on transport calls, and a transport that answers every call (the premise `TransportAnswers` of rule
R279). -/

namespace Sys2Proof.Machine

open Sys2Proof

/-! ### The invariant of the registers -/

/-- A frame has between 4 and 261 bytes (rule R33). -/
def isFrameLength (n : Nat) : Prop := 4 ≤ n ∧ n ≤ 261

/-- `XE.rounds` never exceeds the cap (rule R36). -/
def Xe.RoundsInCap (cfg : Config) (x : Xe) : Prop := x.rounds.toNat ≤ cfg.maxContinuations.val

/-- In `Sending` (rules R163, R172): the session is latched and no error is recorded. In the first round nothing has been
received; in a later round the frame is the GET RESPONSE of the last `61xx`. -/
def Xe.SendingOk (cfg : Config) (x : Xe) : Prop :=
  x.session.isSome ∧ x.error = none ∧ isFrameLength x.frame.length ∧ x.RoundsInCap cfg ∧
  (x.rounds = 0#8 → x.sw = none ∧ x.body = []) ∧
  (x.rounds ≠ 0#8 → ∃ l, x.sw = some { sw1 := 0x61#8, sw2 := l } ∧ x.frame = getResponseFrame l)

/-- In `AwaitingContinuation` (rules R167, R169): the status word is a `61xx`. -/
def Xe.AwaitingOk (cfg : Config) (x : Xe) : Prop :=
  x.txPending = false ∧ x.session.isSome ∧ x.error = none ∧ isFrameLength x.frame.length ∧ x.RoundsInCap cfg ∧
  ∃ l, x.sw = some { sw1 := 0x61#8, sw2 := l }

/-- In `Done` (rules R167, R168): the status word is `90 00`. -/
def Xe.DoneOk (cfg : Config) (x : Xe) : Prop :=
  x.txPending = false ∧ x.session.isSome ∧ x.error = none ∧ isFrameLength x.frame.length ∧ x.RoundsInCap cfg ∧
  x.sw = some { sw1 := 0x90#8, sw2 := 0x00#8 }

/-- What the registers say about the error recorded (rules R161, R165, R166, R170, R171). -/
def Xe.ErrorOk (cfg : Config) (x : Xe) : XeError → Prop
  | .invalidParameter _ =>
    x.frame = [] ∧ x.body = [] ∧ x.sw = none ∧ x.rounds = 0#8 ∧ x.session = none
  | .emptyResponse => x.session.isSome
  | .cardStatus sw1 sw2 d =>
    x.session.isSome ∧ x.sw = some { sw1 := sw1, sw2 := sw2 } ∧ isNamedStatus sw1 sw2 = false ∧
    d = swCatalogAt cfg (code16 sw1 sw2)
  | .tooManyContinuations => x.session.isSome ∧ x.rounds.toNat = cfg.maxContinuations.val
  | .transportFailure _ => x.session.isSome

/-- In `Failed` (rule R251): an error is recorded, and no call is outstanding. -/
def Xe.FailedOk (cfg : Config) (x : Xe) : Prop :=
  x.txPending = false ∧ x.RoundsInCap cfg ∧ ∃ e, x.error = some e ∧ x.ErrorOk cfg e

/-- The registers are as the rules leave them. In `Idle` every register has its reset value (rules R51, R181). -/
def Xe.Ok (cfg : Config) (x : Xe) : Prop :=
  match x.state with
  | .idle => x = Xe.reset
  | .sending => x.SendingOk cfg
  | .awaitingContinuation => x.AwaitingOk cfg
  | .done => x.DoneOk cfg
  | .failed => x.FailedOk cfg

/-- The call XE waits for is the last one made: the latched session and the frame in `XE.frame` (rules R164, R178). -/
def State.OutstandingOk (s : State) : Prop :=
  s.xe.waitsForAnswer = true →
    ∃ session, s.xe.session = some session ∧ s.calls.getLast? = some { session := session, frame := s.xe.frame }

/-- The invariant: no decode is under way between steps (rules R39, R120), the registers are as the rules leave them, and the
outstanding call is the last call. -/
def State.Inv (s : State) : Prop :=
  s.atrd = AtrWork.idle ∧ s.xe.Ok s.cfg ∧ s.OutstandingOk

/-! ### Whose turn it is -/

/-- No decode is under way and the next step is XE's own: nothing more happens at the ports (`es = []`), or XE's turn comes first
and `es` after it (rule R279). -/
def State.XeTurn (s : State) (es : List Event) : Prop :=
  s.atrd.active = false ∧ ((s.events = [] ∧ es = []) ∨ s.events = .xe :: es)

/-- No decode is under way and the next step takes the event `e` (rules R11, R12). -/
def State.EventTurn (s : State) (e : Event) (es : List Event) : Prop :=
  s.atrd.active = false ∧ s.events = e :: es

/-! ### The bound on transport calls -/

/-- How many more transport calls the exchange in progress can make (rule R179). -/
def Xe.callsLeft (cfg : Config) (x : Xe) : Nat :=
  match x.state with
  | .idle => 0
  | .sending => (cfg.maxContinuations.val - x.rounds.toNat) + (if x.txPending then 0 else 1)
  | .awaitingContinuation => cfg.maxContinuations.val - x.rounds.toNat
  | .done => 0
  | .failed => 0

/-! ### A transport that answers -/

/-- What the premise `TransportAnswers` (rule R279) adds to a state with nothing else to happen: the transport `t`, a function
of the number of the call, answers the outstanding call. -/
def State.withAnswer (t : Nat → Answer) (s : State) : State :=
  if s.xe.waitsForAnswer then s.withEvents [.answer s.calls.length (t s.calls.length)] else s

/-- `n` steps of the block with a transport that answers every call. -/
def drive (t : Nat → Answer) : Nat → State → Out
  | 0, s => .next s
  | n + 1, s =>
    match step (s.withAnswer t) with
    | .next s' => drive t n s'
    | .fault f => .fault f
    | .refused r => .refused r

/-- How many steps an exchange in progress can take under such a transport: three a round, and its end (rules R179, R279). -/
def Xe.stepsLeft (cfg : Config) (x : Xe) : Nat := 3 * (cfg.maxContinuations.val - x.rounds.toNat) + 4

end Sys2Proof.Machine
end

