-- ==== Sys2Proof/Certificates/Slice0/Obligations.lean ====
section
/-! DEFINITION. The statements about the model, for the provers. Each docstring names the rule of spec/ it formalises and says
where a clause is the model's own choice. -/

open Sys2Proof Sys2Proof.Machine

/-! ### Encodings -/

/-- Rules R82 to R95 and R101: no bit of an encoding is dropped. -/
def Obligations.DecodeEncodeRoundTrip : Prop :=
  ∀ i : Instr, i.wellFormed = true → decode (encode i) = .ok i

/-- Rules R82 to R95: bytes that decode are the encoding of a well-formed instruction, and of that one only. -/
def Obligations.DecodeIsExact : Prop :=
  ∀ (w : Wire) (i : Instr), decode w = .ok i →
    i.wellFormed = true ∧ encode i = w ∧ ∀ j : Instr, j.wellFormed = true → encode j = w → j = i

/-- A sanity statement: twelve words or frames written out from the spec's encodings decode to the instructions they stand for
(rules R82 to R95). The last two conjuncts are about table words: that 8 bits are a TS character and 16 bits a status word is the
model's choice (notes/assumptions/8). -/
def Obligations.WrittenWordsDecode : Prop :=
  decode (.bytes .ts [0b00111011#8]) = .ok .atrTsDirect ∧
  decode (.bytes .ts [0b00111111#8]) = .ok .atrTsInverse ∧
  decode (.bytes .ts [0b01000001#8]) = .ok (.atrTsIllegal 0x41#8) ∧
  decode (.bytes .t0 [0b01100101#8]) = .ok (.atrT0 0b0110#4 5#4) ∧
  decode (.bytes .ta1 [0b10010110#8]) = .ok (.atrTa1 9#4 6#4) ∧
  decode (.bytes .td [0b10000001#8]) = .ok (.atrTdI 0b1000#4 1#4) ∧
  decode (.bytes .statusWord [0b10010000#8, 0b00000000#8]) = .ok .swSuccess ∧
  decode (.bytes .statusWord [0b01100001#8, 0b00000101#8]) = .ok (.swMoreData 5#8) ∧
  decode (.bytes .statusWord [0x90#8, 0x01#8]) = .ok (.swOther 0x90#8 0x01#8) ∧
  decode (.bytes .getResponseFrame [0x00#8, 0b11000000#8, 0x00#8, 0x00#8, 0x05#8]) = .ok (.getResponse 5#8) ∧
  decode (.bytes .commandFrame [0x00#8, 0xA4#8, 0x04#8, 0x00#8, 0x02#8, 0x3F#8, 0x00#8])
    = .ok (.apduCase3 0x00#8 0xA4#8 0x04#8 0x00#8 [0x3F#8, 0x00#8]) ∧
  decode (.bytes .response [0xAA#8, 0x90#8, 0x00#8]) = .ok (.response [0xAA#8] 0x90#8 0x00#8) ∧
  decodeTableWord 8 0x3B = some .atrTsDirect ∧ decodeTableWord 16 0x6A82 = some (.swOther 0x6A#8 0x82#8)

/-- Rule R91 and the bound of rule R33: a command that passes the range check is serialized by the rule's formula, to the frame of
its case, which is a well-formed row of the table; its length is the one the rule's table gives. -/
def Obligations.SerializationIsACaseFrame : Prop :=
  ∀ c : ApduCommand, firstInvalidField c = none →
    serialize c = [BitVec.ofNat 8 c.cla, BitVec.ofNat 8 c.ins, BitVec.ofNat 8 c.p1, BitVec.ofNat 8 c.p2]
      ++ (match c.data with
          | some d => if 1 ≤ d.length then BitVec.ofNat 8 d.length :: d.map (BitVec.ofNat 8) else []
          | none => [])
      ++ (match c.le with | some n => [BitVec.ofNat 8 n] | none => []) ∧
    encode (commandRow c) = .bytes .commandFrame (serialize c) ∧ (commandRow c).wellFormed = true ∧
    (serialize c).length
      = 4 + (if (c.data.getD []).length = 0 then 0 else 1 + (c.data.getD []).length) + (if c.le = none then 0 else 1) ∧
    4 ≤ (serialize c).length ∧ (serialize c).length ≤ 261

/-- Rules R62 and R94: the one multi-byte value, SW1 its high byte, and nothing lost. -/
def Obligations.StatusWordCode : Prop :=
  ∀ sw1 sw2 : Byte, (code16 sw1 sw2).toNat = sw1.toNat * 256 + sw2.toNat ∧
    code16Hi (code16 sw1 sw2) = sw1 ∧ code16Lo (code16 sw1 sw2) = sw2

/-- Rule R49: the five codes are 0 to 4 and stand for their states. That the codes 5 to 7, which no rule reaches, are answered by a
fault is the treatment I14 of spec/93_implementation_defined.md, coded as notes/assumptions/14 says. -/
def Obligations.StateCodes : Prop :=
  XeState.idle.code = 0#3 ∧ XeState.sending.code = 1#3 ∧ XeState.awaitingContinuation.code = 2#3 ∧
  XeState.done.code = 3#3 ∧ XeState.failed.code = 4#3 ∧
  (∀ st : XeState, XeState.ofCode st.code = .ok st) ∧
  (∀ c : BitVec 3, (∀ st : XeState, st.code ≠ c) → XeState.ofCode c = .error .illegalStateCode)

/-- Rule R240's codes, for every value an error carries; the numbers of the fields; and `0x00` for a result that is no error. That
a description lookup has the code `0x00` is the model's reading (notes/assumptions/13). -/
def Obligations.ErrorCodesNameTheKind : Prop :=
  Malformed.tooShort.code = 0x01#8 ∧ Malformed.badTs.code = 0x02#8 ∧ Malformed.truncated.code = 0x03#8 ∧
  Malformed.trailingOrMissing.code = 0x04#8 ∧
  (∀ f, (XeError.invalidParameter f).code = 0x10#8) ∧ XeError.emptyResponse.code = 0x20#8 ∧
  (∀ a b d, (XeError.cardStatus a b d).code = 0x21#8) ∧ XeError.tooManyContinuations.code = 0x22#8 ∧
  (∀ i, (XeError.transportFailure i).code = 0x23#8) ∧
  CmdField.cla.code = 0 ∧ CmdField.ins.code = 1 ∧ CmdField.p1.code = 2 ∧ CmdField.p2.code = 3 ∧ CmdField.data.code = 4 ∧
  CmdField.le.code = 5 ∧
  (∀ r : HostResult, r.code = 0x00#8 ↔
    (∀ m, r ≠ .atr (.error m)) ∧ (∀ e, r ≠ .exchange (.error e)))

/-! ### Steps -/

/-- A step runs the decoded instruction: a host request is run as the instruction it is, bytes the transport gives to the call
XE waits for as the response they decode to, the only waiting EXCHANGE as an EXCHANGE when XE is `Idle`, the continuation of a
`61xx` as a GET RESPONSE with its SW2, and the character awaited by a decode as its row. The event that brings the instruction
is taken first. A response runs the row its status word decodes to, within the same step, once its prefix and status word are
taken (rule R167). The sixth clause is the model's choice: the spec's DECODE_ATR is one atomic step (rule R39), and that a decode
placed under way runs one character row a step is notes/assumptions/8 and notes/assumptions/10. So is what brings an event: the
list of them (notes/assumptions/9). -/
def Obligations.StepRunsTheDecodedInstruction : Prop :=
  (∀ (s s' : State) (i : Instr), fetch s = some (i, s') → step s = exec i s') ∧
  (∀ (s : State) (r : Request) (es : List Event) (i : Instr), s.EventTurn (.request r) es →
    decode (.request r) = .ok i → step s = exec i { s with events := es }) ∧
  (∀ (s : State) (bs : List Byte) (es : List Event) (i : Instr), s.EventTurn (.answer s.calls.length (.bytes bs)) es →
    s.xe.state = .sending → s.xe.txPending = true →
    decode (.bytes .response bs) = .ok i → step s = exec i { s with events := es }) ∧
  (∀ (s : State) (es : List Event) (session : Session) (cmd : ApduCommand), s.XeTurn es → s.xe.state = .idle →
    s.waiting = [(session, cmd)] → step s = exec (.exchange session cmd) { s with events := es, waiting := [] }) ∧
  (∀ (s : State) (es : List Event) (l : Byte), s.XeTurn es → s.xe.state = .awaitingContinuation →
    s.xe.sw = some { sw1 := 0x61#8, sw2 := l } → step s = exec (.getResponse l) { s with events := es }) ∧
  (∀ (s : State) (slot : Slot) (i : Instr), s.atrd.place = some slot →
    decode (.bytes slot (s.atrd.bytesAt slot)) = .ok i → step s = exec i s) ∧
  (∀ (s : State) (pre : List Byte) (sw1 sw2 : Byte) (i : Instr), s.xe.state = .sending → s.xe.txPending = true →
    decode (.bytes .statusWord [sw1, sw2]) = .ok i →
    exec (.response pre sw1 sw2) s = exec i { s with xe := { s.xe with
      txPending := false, body := s.xe.body ++ pre, sw := some { sw1 := sw1, sw2 := sw2 } } })

/-- Rules R184 and I15: with XE `Idle`, XE's step accepts one of the waiting requests, whichever it is (the choice is the
model's free value `Config.pick`, notes/assumptions/2), and the others go on waiting in order, as they arrived
(notes/assumptions/16). -/
def Obligations.IdleAcceptsAWaitingExchange : Prop :=
  ∀ (s : State) (es : List Event), s.XeTurn es → s.xe.state = .idle → s.waiting ≠ [] →
    ∃ pre session cmd post n, s.waiting = pre ++ (session, cmd) :: post ∧
      step s = exec (.exchange session cmd) { s with events := es, waiting := pre ++ post, picks := n }

/-! ### The ATR decoder -/

/-- Rule R120: DECODE_ATR is one step. It delivers exactly what the rule's pseudocode gives on `raw` and writes nothing else,
although the model runs it character by character. -/
def Obligations.DecodeAtrDeliversThePseudocodesResult : Prop :=
  ∀ (raw : List Byte) (s : State),
    exec (.decodeAtr raw) s = .next { s with delivered := s.delivered ++ [.atr (decodeAtr s.cfg raw)] }

/-- The character rows reach a run: from a decode of `raw` about to read its first character, steps that run one row each end,
within `len(raw) + 3` of them, in the state DECODE_ATR leaves. The placed state is the model's own (notes/assumptions/8). -/
def Obligations.CharacterRowsMakeUpTheDecode : Prop :=
  ∀ (raw : List Byte) (s : State), s.atrd = AtrWork.idle →
    ∃ n, n ≤ raw.length + 3 ∧ Host.Core.run Sys2Proof.core n (s.placeAtr raw) = exec (.decodeAtr raw) s

/-- Rule R121: fewer than two bytes are `TOO_SHORT`, whatever they are. -/
def Obligations.ShortAtrIsTooShort : Prop :=
  ∀ (raw : List Byte) (s : State), raw.length < 2 →
    exec (.decodeAtr raw) s = .next { s with delivered := s.delivered ++ [.atr (.error .tooShort)] }

/-- Rule R122: TS selects the convention, any other value is `BAD_TS`, and the length check comes first. -/
def Obligations.InitialCharacterSelectsTheConvention : Prop :=
  (∀ (cfg : Config) (ts t0 : Byte) (rest : List Byte), ts ≠ 0x3B#8 → ts ≠ 0x3F#8 →
    runAtr cfg (ts :: t0 :: rest) = .error .badTs) ∧
  (∀ (cfg : Config) (rest : List Byte) (r : AtrRecord), runAtr cfg (0x3B#8 :: rest) = .ok r →
    r.initialCharacter = .direct) ∧
  (∀ (cfg : Config) (rest : List Byte) (r : AtrRecord), runAtr cfg (0x3F#8 :: rest) = .ok r →
    r.initialCharacter = .inverse) ∧
  (∀ (cfg : Config) (ts : Byte), runAtr cfg [ts] = .error .tooShort)

/-- Rule R142: the convention is a label and changes nothing else. -/
def Obligations.InverseConventionChangesTheLabelOnly : Prop :=
  ∀ (cfg : Config) (rest : List Byte),
    runAtr cfg (0x3F#8 :: rest)
      = (runAtr cfg (0x3B#8 :: rest)).map fun r => { r with initialCharacter := Convention.inverse }

/-- Rule R141: the length law, in its three forms. -/
def Obligations.AtrLengthLaw : Prop :=
  ∀ (cfg : Config) (raw : List Byte) (r : AtrRecord), runAtr cfg raw = .ok r →
    raw.length = 2 + (r.interfaceGroups.map fun g =>
        g.ta.toList.length + g.tb.toList.length + g.tc.toList.length + g.td.toList.length).sum
      + r.historicalBytes.length + (if r.checkByte = none then 0 else 1) ∧
    (r.fieldOrder.map fun f => if f = .hb then r.historicalBytes.length else 1).sum = raw.length ∧
    r.reserialize = raw

/-- Rule R136: group 1 always exists, group `i + 1` exists iff `TD_i` is present, the number of groups is one more than the number
of TD bytes, and the rule's example with an empty last group. -/
def Obligations.GroupsFollowTheTdChain : Prop :=
  (∀ (cfg : Config) (raw : List Byte) (r : AtrRecord), runAtr cfg raw = .ok r →
    0 < r.interfaceGroups.length ∧
    (∀ i g, r.interfaceGroups[i]? = some g → (g.td.isSome ↔ i + 1 < r.interfaceGroups.length)) ∧
    r.interfaceGroups.length = 1 + (r.interfaceGroups.filter fun g => g.td.isSome).length) ∧
  (∀ cfg : Config, ∃ r, runAtr cfg [0x3B#8, 0x80#8, 0x00#8] = .ok r ∧
    r.interfaceGroups = [{ AtrGroup.empty with td := some 0x00#8, protocol := some 0#4 }, AtrGroup.empty])

/-- Rules R104, R128 and R132: a check byte is recorded iff some group's protocol number is not 0. -/
def Obligations.CheckByteFollowsTheProtocols : Prop :=
  ∀ (cfg : Config) (raw : List Byte) (r : AtrRecord), runAtr cfg raw = .ok r →
    (r.checkByte ≠ none ↔ ∃ g ∈ r.interfaceGroups, ∃ t, g.protocol = some t ∧ t ≠ 0#4)

/-- Rule R133: no value of TCK causes an error, and it is stored as read. -/
def Obligations.CheckByteIsNotValidated : Prop :=
  ∀ (cfg : Config) (pre : List Byte) (c d : Byte) (r : AtrRecord),
    runAtr cfg (pre ++ [c]) = .ok r → r.checkByte ≠ none →
    r.checkByte = some c ∧ runAtr cfg (pre ++ [d]) = .ok { r with checkByte := some d }

/-- Rules R138 and R139: `TA_1` is interpreted through the two tables, entry by entry, an `RFU` entry included; without `TA_1`
there is no factor. -/
def Obligations.Ta1IsInterpretedThroughTheTables : Prop :=
  ∀ (cfg : Config) (raw : List Byte) (r : AtrRecord), runAtr cfg raw = .ok r →
    ∃ g, r.interfaceGroups.head? = some g ∧
      r.fi = g.ta.map (fun a => fiOf cfg (hiNibble a)) ∧ r.di = g.ta.map (fun a => diOf cfg (loNibble a))

/-- Rules R89 and R134: bytes after a well-formed ATR are trailing bytes. -/
def Obligations.TrailingBytesAreRefused : Prop :=
  ∀ (cfg : Config) (raw extra : List Byte) (r : AtrRecord), runAtr cfg raw = .ok r → extra ≠ [] →
    runAtr cfg (raw ++ extra) = .error .trailingOrMissing

/-- The TS rows (rule R122) where TS is awaited: the convention, or `BAD_TS`; nothing else is written.
That a decode under way runs one row
a step, and that a row records its own operands also where `raw` holds others, is the model's choice (notes/assumptions/10,
notes/assumptions/19). So is the error of `atrTsIllegal` on the two legal values (notes/assumptions/20). -/
def Obligations.TsRowsComplete : Prop :=
  ∀ (s : State) (ts : Byte), s.atrd.place = some .ts →
    exec .atrTsDirect s = .next { s with atrd := { s.atrd with conv := .direct, phase := .t0 } } ∧
    exec .atrTsInverse s = .next { s with atrd := { s.atrd with conv := .inverse, phase := .t0 } } ∧
    exec (.atrTsIllegal ts) s = .next { s with atrd := { s.atrd with error := some .badTs } }

/-- The T0 row (rules R123, R129) where T0 is awaited: `K` and the mask; with no presence bit the empty group 1 is recorded.
That a decode under way runs one row
a step, and that a row records its own operands also where `raw` holds others, is the model's choice (notes/assumptions/10,
notes/assumptions/19). -/
def Obligations.T0RowCompletes : Prop :=
  ∀ (s : State) (y k : Nibble), s.atrd.place = some .t0 →
    exec (.atrT0 y k) s = .next { s with atrd := { s.atrd with
      t0 := ofNibbles y k, k := k.toNat, mask := y,
      groups := if y = 0#4 then s.atrd.groups ++ [s.atrd.group] else s.atrd.groups,
      phase := if y = 0#4 then .hist else .group } }

/-- The rows `TA_1`, `TA_i`, `TB_i` and `TC_i` (rules R125 to R127, R138) where their byte is awaited and the check of rule R130
passes: the byte is stored, the cursor moves by one, the field is listed, and the group is recorded when no presence bit is
left (rule R129).
That a decode under way runs one row
a step, and that a row records its own operands also where `raw` holds others, is the model's choice (notes/assumptions/10,
notes/assumptions/19). -/
def Obligations.InterfaceByteRowsComplete : Prop :=
  ∀ (s : State) (v : Byte) (fi di : Nibble),
    s.atrd.cur + 1 + (s.atrd.k + if s.atrd.anyNonT0 then 1 else 0) ≤ s.atrd.raw.length →
    (s.atrd.place = some .ta1 →
      exec (.atrTa1 fi di) s = .next { s with atrd := { s.atrd with
        group := { s.atrd.group with ta := some (ofNibbles fi di) },
        fi := some (fiOf s.cfg fi), di := some (diOf s.cfg di), cur := s.atrd.cur + 1,
        order := s.atrd.order ++ [FieldId.ta s.atrd.idx], mask := s.atrd.mask &&& 0b1110#4,
        groups := if s.atrd.mask &&& 0b1110#4 = 0#4 then
          s.atrd.groups ++ [{ s.atrd.group with ta := some (ofNibbles fi di) }] else s.atrd.groups,
        phase := if s.atrd.mask &&& 0b1110#4 = 0#4 then .hist else .group } }) ∧
    (s.atrd.place = some .ta →
      exec (.atrTaI v) s = .next { s with atrd := { s.atrd with
        group := { s.atrd.group with ta := some v }, cur := s.atrd.cur + 1,
        order := s.atrd.order ++ [FieldId.ta s.atrd.idx], mask := s.atrd.mask &&& 0b1110#4,
        groups := if s.atrd.mask &&& 0b1110#4 = 0#4 then s.atrd.groups ++ [{ s.atrd.group with ta := some v }] else s.atrd.groups,
        phase := if s.atrd.mask &&& 0b1110#4 = 0#4 then .hist else .group } }) ∧
    (s.atrd.place = some .tb →
      exec (.atrTbI v) s = .next { s with atrd := { s.atrd with
        group := { s.atrd.group with tb := some v }, cur := s.atrd.cur + 1,
        order := s.atrd.order ++ [FieldId.tb s.atrd.idx], mask := s.atrd.mask &&& 0b1101#4,
        groups := if s.atrd.mask &&& 0b1101#4 = 0#4 then s.atrd.groups ++ [{ s.atrd.group with tb := some v }] else s.atrd.groups,
        phase := if s.atrd.mask &&& 0b1101#4 = 0#4 then .hist else .group } }) ∧
    (s.atrd.place = some .tc →
      exec (.atrTcI v) s = .next { s with atrd := { s.atrd with
        group := { s.atrd.group with tc := some v }, cur := s.atrd.cur + 1,
        order := s.atrd.order ++ [FieldId.tc s.atrd.idx], mask := s.atrd.mask &&& 0b1011#4,
        groups := if s.atrd.mask &&& 0b1011#4 = 0#4 then s.atrd.groups ++ [{ s.atrd.group with tc := some v }] else s.atrd.groups,
        phase := if s.atrd.mask &&& 0b1011#4 = 0#4 then .hist else .group } })

/-- Rules R128 and R129, for the `TD_i` row where `TD_i` is awaited and the check of rule R130 passes: `TD_i` and its protocol
number are recorded, group `i` is appended, and group `i + 1` begins with the mask `y`; with `y = 0` it is empty and the last.
That a decode under way runs one row
a step, and that a row records its own operands also where `raw` holds others, is the model's choice (notes/assumptions/10,
notes/assumptions/19). -/
def Obligations.TdRowCompletes : Prop :=
  ∀ (s : State) (y t : Nibble), s.atrd.place = some .td →
    s.atrd.cur + 1 + (s.atrd.k + if s.atrd.anyNonT0 then 1 else 0) ≤ s.atrd.raw.length →
    exec (.atrTdI y t) s = .next { s with atrd := { s.atrd with
      cur := s.atrd.cur + 1, order := s.atrd.order ++ [FieldId.td s.atrd.idx], idx := s.atrd.idx + 1, mask := y,
      anyNonT0 := s.atrd.anyNonT0 || t != 0#4, group := AtrGroup.empty,
      groups := s.atrd.groups ++ [{ s.atrd.group with td := some (ofNibbles y t), protocol := some t }]
        ++ (if y = 0#4 then [AtrGroup.empty] else []),
      phase := if y = 0#4 then .hist else .group } }

/-- Rule R130: the truncation check comes before every interface byte, with `anyNonT0` as it stands before the byte, and its
worked example.
That a decode under way runs one row
a step, and that a row records its own operands also where `raw` holds others, is the model's choice (notes/assumptions/10,
notes/assumptions/19). -/
def Obligations.TruncationCheckComesFirst : Prop :=
  (∀ (s : State) (v : Byte) (a b : Nibble),
    s.atrd.cur + 1 + (s.atrd.k + if s.atrd.anyNonT0 then 1 else 0) > s.atrd.raw.length →
    (s.atrd.place = some .ta1 → exec (.atrTa1 a b) s = .next { s with atrd := { s.atrd with error := some .truncated } }) ∧
    (s.atrd.place = some .ta → exec (.atrTaI v) s = .next { s with atrd := { s.atrd with error := some .truncated } }) ∧
    (s.atrd.place = some .tb → exec (.atrTbI v) s = .next { s with atrd := { s.atrd with error := some .truncated } }) ∧
    (s.atrd.place = some .tc → exec (.atrTcI v) s = .next { s with atrd := { s.atrd with error := some .truncated } }) ∧
    (s.atrd.place = some .td →
      exec (.atrTdI a b) s = .next { s with atrd := { s.atrd with error := some .truncated } })) ∧
  (∀ cfg : Config, runAtr cfg [0x3B#8, 0x65#8, 0x00#8, 0xFF#8] = .error .truncated)

/-- The rows `ATR_HB` (rules R131, R135) and `ATR_TCK` (rules R132, R133) where they are awaited: the bytes are recorded when they
are there, and `TRAILING_OR_MISSING` is the error when they run past the end.
That a decode under way runs one row
a step, and that a row records its own operands also where `raw` holds others, is the model's choice (notes/assumptions/10,
notes/assumptions/19). So is more than 15 historical bytes (notes/assumptions/20). -/
def Obligations.HistoricalAndCheckByteRowsComplete : Prop :=
  (∀ (s : State) (vs : List Byte), s.atrd.place = some (.hb vs.length) →
    (s.atrd.cur + vs.length ≤ s.atrd.raw.length →
      exec (.atrHb vs) s = .next { s with atrd := { s.atrd with
        hist := vs, cur := s.atrd.cur + vs.length,
        order := if vs.length = 0 then s.atrd.order else s.atrd.order ++ [.hb],
        phase := if s.atrd.anyNonT0 then .tck else .final } }) ∧
    (s.atrd.cur + vs.length > s.atrd.raw.length →
      exec (.atrHb vs) s = .next { s with atrd := { s.atrd with error := some .trailingOrMissing } })) ∧
  (∀ (s : State) (c : Byte), s.atrd.place = some .tck →
    (s.atrd.cur + 1 ≤ s.atrd.raw.length →
      exec (.atrTck c) s = .next { s with atrd := { s.atrd with
        tck := some c, cur := s.atrd.cur + 1, order := s.atrd.order ++ [.tck], phase := .final } }) ∧
    (s.atrd.cur + 1 > s.atrd.raw.length →
      exec (.atrTck c) s = .next { s with atrd := { s.atrd with error := some .trailingOrMissing } }))

/-- A row where the rules that act on it do not apply writes nothing. A character row: another character, or none, is awaited
(rules R81, R87, R125 to R128). A command frame outside `Idle` (rule R184), a GET RESPONSE outside `AwaitingContinuation` (rule
R176), a status word outside `Sending`, and a response XE does not wait for (rule R271). For all but the response this is the
model's choice (notes/assumptions/4).
So it is for an ill-formed term (notes/assumptions/20). -/
def Obligations.RowsElsewhereWriteNothing : Prop :=
  (∀ (s : State) (i : Instr) (slot : Slot) (bs : List Byte),
    encode i = .bytes slot bs → s.atrd.place ≠ some slot →
    slot ∈ [.ts, .t0, .ta1, .ta, .tb, .tc, .td, .hb bs.length, .tck] → exec i s = .next s) ∧
  (∀ (s : State) (i : Instr) (bs : List Byte),
    (encode i = .bytes .commandFrame bs ∧ s.xe.state ≠ .idle) ∨
    (encode i = .bytes .getResponseFrame bs ∧ s.xe.state ≠ .awaitingContinuation) ∨
    (encode i = .bytes .statusWord bs ∧ s.xe.state ≠ .sending) ∨
    (encode i = .bytes .response bs ∧ (s.xe.state ≠ .sending ∨ s.xe.txPending = false)) → exec i s = .next s)

/-! ### The exchange engine: acceptance -/

/-- Rule R161: the order of the checks, what each accepts, and what a failure writes. No call is made. -/
def Obligations.ExchangeNamesTheFirstInvalidField : Prop :=
  (∀ c : ApduCommand,
    let dataOk := ∀ d, c.data = some d → d.length ≤ 255 ∧ ∀ n ∈ d, n ≤ 255
    let leOk := ∀ n, c.le = some n → n ≤ 255
    (firstInvalidField c = some .cla ↔ 255 < c.cla) ∧
    (firstInvalidField c = some .ins ↔ c.cla ≤ 255 ∧ 255 < c.ins) ∧
    (firstInvalidField c = some .p1 ↔ c.cla ≤ 255 ∧ c.ins ≤ 255 ∧ 255 < c.p1) ∧
    (firstInvalidField c = some .p2 ↔ c.cla ≤ 255 ∧ c.ins ≤ 255 ∧ c.p1 ≤ 255 ∧ 255 < c.p2) ∧
    (firstInvalidField c = some .data ↔ c.cla ≤ 255 ∧ c.ins ≤ 255 ∧ c.p1 ≤ 255 ∧ c.p2 ≤ 255 ∧ ¬dataOk) ∧
    (firstInvalidField c = some .le ↔ c.cla ≤ 255 ∧ c.ins ≤ 255 ∧ c.p1 ≤ 255 ∧ c.p2 ≤ 255 ∧ dataOk ∧ ¬leOk) ∧
    (firstInvalidField c = none ↔ c.cla ≤ 255 ∧ c.ins ≤ 255 ∧ c.p1 ≤ 255 ∧ c.p2 ≤ 255 ∧ dataOk ∧ leOk)) ∧
  (∀ (s : State) (session : Session) (cmd : ApduCommand) (f : CmdField), s.xe.state = .idle →
    firstInvalidField cmd = some f →
    exec (.exchange session cmd) s = .next { s with xe := { s.xe with
      error := some (.invalidParameter f), txPending := false, state := .failed } })

/-- Rules R162 and R163: acceptance of a valid EXCHANGE writes every register, and nothing else of the state. -/
def Obligations.ExchangeAcceptsAValidCommand : Prop :=
  ∀ (s : State) (session : Session) (cmd : ApduCommand), s.xe.state = .idle → firstInvalidField cmd = none →
    exec (.exchange session cmd) s = .next { s with xe := {
      state := .sending, txPending := false, frame := serialize cmd, body := [], sw := none, rounds := 0#8,
      session := some session, error := none } }

/-- Rules R91 and R162: in `Idle`, the four command-frame rows write `XE.frame` and nothing else; Le is sent unchanged (rule
R100).
That a frame row run alone leaves XE in `Idle`, and the Lc of more than 255 data bytes, which are no well-formed row, are the
model's choice (notes/assumptions/18, notes/assumptions/20). -/
def Obligations.CommandFrameRowsWriteTheFrame : Prop :=
  ∀ (s : State) (cla ins p1 p2 le d : Byte) (ds : List Byte), s.xe.state = .idle →
    exec (.apduCase1 cla ins p1 p2) s = .next { s with xe := { s.xe with frame := [cla, ins, p1, p2] } } ∧
    exec (.apduCase2 cla ins p1 p2 le) s = .next { s with xe := { s.xe with frame := [cla, ins, p1, p2, le] } } ∧
    exec (.apduCase3 cla ins p1 p2 (d :: ds)) s = .next { s with xe := { s.xe with
      frame := [cla, ins, p1, p2, BitVec.ofNat 8 (ds.length + 1)] ++ (d :: ds) } } ∧
    exec (.apduCase4 cla ins p1 p2 (d :: ds) le) s = .next { s with xe := { s.xe with
      frame := [cla, ins, p1, p2, BitVec.ofNat 8 (ds.length + 1)] ++ (d :: ds) ++ [le] } }

/-- Rules R162 and R163: acceptance is the command's frame row and then the other registers.
What the frame row does alone is the model's choice
(notes/assumptions/18). -/
def Obligations.ExchangeRunsItsFrameRow : Prop :=
  ∀ (s : State) (session : Session) (cmd : ApduCommand), s.xe.state = .idle → firstInvalidField cmd = none →
    ∃ t, exec (commandRow cmd) s = .next t ∧
      exec (.exchange session cmd) s = .next { t with xe := { t.xe with
        body := [], sw := none, rounds := 0#8, session := some session, error := none, txPending := false,
        state := .sending } }

/-- Rule R184: an EXCHANGE that arrives while XE is not `Idle` waits and nothing else is written; it goes on waiting, in its place,
as long as XE is not `Idle`; and once XE is `Idle` it is accepted by rule R161 or rule R163. Two parts are the model's choice: that
a step which takes a reset leaves the waiting requests (notes/assumptions/6), and that a request waits, and is accepted, with the
operands it arrived with (notes/assumptions/16). -/
def Obligations.ExchangeWaitsWhileXeIsBusy : Prop :=
  (∀ (s : State) (session : Session) (cmd : ApduCommand), s.xe.state ≠ .idle →
    exec (.exchange session cmd) s = .next { s with waiting := s.waiting ++ [(session, cmd)] }) ∧
  (∀ s t : State, s.xe.state ≠ .idle → step s = .next t → ∃ more, t.waiting = s.waiting ++ more) ∧
  (∀ (s : State) (es : List Event) (session : Session) (cmd : ApduCommand), s.XeTurn es → s.xe.state = .idle →
    s.waiting = [(session, cmd)] →
    (∀ f, firstInvalidField cmd = some f → step s = .next { s with events := es, waiting := [], xe := { s.xe with
      error := some (.invalidParameter f), txPending := false, state := .failed } }) ∧
    (firstInvalidField cmd = none → step s = .next { s with events := es, waiting := [], xe := {
      state := .sending, txPending := false, frame := serialize cmd, body := [], sw := none, rounds := 0#8,
      session := some session, error := none } }))

/-! ### The exchange engine: one round -/

/-- Rules R164, R178 and R180: XE's step in `Sending` issues one call with the latched session and `XE.frame`, and while the call
is not answered it issues nothing and writes nothing. That a call which reset abandoned, still unanswered on the same handle, does not
hinder the issue is the model's choice (notes/assumptions/17). -/
def Obligations.IssueMakesOneCallAndWaits : Prop :=
  (∀ (s : State) (es : List Event) (session : Session), s.XeTurn es → s.xe.state = .sending →
    s.xe.txPending = false → s.xe.session = some session →
    step s = .next { s with
      events := es, calls := s.calls ++ [{ session := session, frame := s.xe.frame }],
      xe := { s.xe with txPending := true } }) ∧
  (∀ (s : State) (es : List Event), s.XeTurn es → s.xe.state = .sending → s.xe.txPending = true →
    step s = .next { s with events := es })

/-- Rules R165 and R246: a failure of the call XE waits for, in any round. The frame is not sent again: no call is made. -/
def Obligations.TransportFailureEndsTheExchange : Prop :=
  ∀ (s : State) (info : Info) (es : List Event), s.EventTurn (.answer s.calls.length (.failure info)) es →
    s.xe.state = .sending → s.xe.txPending = true →
    step s = .next { s with events := es, xe := { s.xe with
      txPending := false, error := some (.transportFailure info), state := .failed } }

/-- Rule R166: a response of 0 or 1 bytes, as the answer of the transport and as a row. `XE.body` and `XE.sw` stay. -/
def Obligations.ShortResponseIsEmptyResponse : Prop :=
  (∀ (s : State) (r : List Byte) (es : List Event), s.EventTurn (.answer s.calls.length (.bytes r)) es →
    s.xe.state = .sending → s.xe.txPending = true → r.length < 2 →
    step s = .next { s with events := es, xe := { s.xe with
      txPending := false, error := some .emptyResponse, state := .failed } }) ∧
  (∀ (s : State) (b : Option Byte), s.xe.state = .sending → s.xe.txPending = true →
    exec (.responseShort b) s = .next { s with xe := { s.xe with
      txPending := false, error := some .emptyResponse, state := .failed } })

/-- Rules R167 to R170: a response of 2 or more bytes, as the answer of the transport and as a row, is split, its prefix appended
whatever its status word, and the status word picks the next state in the same step; nothing else is written. -/
def Obligations.ResponseIsSplitAppendedAndSorted : Prop :=
  ∀ (s : State) (pre : List Byte) (sw1 sw2 : Byte), s.xe.state = .sending → s.xe.txPending = true →
    let x : Xe := { s.xe with
      txPending := false, body := s.xe.body ++ pre, sw := some { sw1 := sw1, sw2 := sw2 },
      state := if sw1 = 0x90#8 ∧ sw2 = 0x00#8 then .done
               else if sw1 = 0x61#8 then .awaitingContinuation else .failed,
      error := if sw1 = 0x90#8 ∧ sw2 = 0x00#8 then s.xe.error
               else if sw1 = 0x61#8 then s.xe.error
               else some (.cardStatus sw1 sw2 (s.cfg.swCatalog.lookup (code16 sw1 sw2))) }
    exec (.response pre sw1 sw2) s = .next { s with xe := x } ∧
    ∀ es, s.EventTurn (.answer s.calls.length (.bytes (pre ++ [sw1, sw2]))) es →
      step s = .next { s with events := es, xe := x }

/-- Rules R168 to R170: the three status-word rows in `Sending`.
The spec sorts a status word only within the step that takes
its response: that a row run alone moves XE and keeps the other registers, with its own bytes and ill-formed ones too, is the
model's choice (notes/assumptions/18, notes/assumptions/19, notes/assumptions/20). -/
def Obligations.StatusWordRowsMoveXe : Prop :=
  ∀ (s : State) (sw1 sw2 : Byte), s.xe.state = .sending →
    exec .swSuccess s = .next { s with xe := { s.xe with state := .done } } ∧
    exec (.swMoreData sw2) s = .next { s with xe := { s.xe with state := .awaitingContinuation } } ∧
    exec (.swOther sw1 sw2) s = .next { s with xe := { s.xe with
      error := some (.cardStatus sw1 sw2 (s.cfg.swCatalog.lookup (code16 sw1 sw2))), txPending := false,
      state := .failed } }

/-! ### The exchange engine: continuation and delivery -/

/-- Rule R171: at the cap a `61xx` fails the exchange and no frame is written, as a row and as XE's step.
As a row it does not
depend on `l` nor on `XE.sw`, which is the model's choice (notes/assumptions/19). -/
def Obligations.CapEndsTheContinuation : Prop :=
  ∀ (s : State) (l : Byte), s.xe.state = .awaitingContinuation → s.xe.rounds.toNat = s.cfg.maxContinuations.val →
    let x : Xe := { s.xe with error := some .tooManyContinuations, txPending := false, state := .failed }
    exec (.getResponse l) s = .next { s with xe := x } ∧
    ∀ es, s.XeTurn es → s.xe.sw = some { sw1 := 0x61#8, sw2 := l } → step s = .next { s with events := es, xe := x }

/-- Rules R172, R182 and R183: below the cap the fixed frame with Le = SW2, `0x00` included, whatever the command's CLA was, and
one more round, which does not wrap; as a row and as XE's step.
That the row run alone sends its own `l`, whatever `XE.sw` holds, is the
model's choice (notes/assumptions/19); XE's step sends the SW2 in `XE.sw`. -/
def Obligations.GetResponseContinuesBelowTheCap : Prop :=
  ∀ (s : State) (l : Byte), s.xe.state = .awaitingContinuation → s.xe.rounds.toNat < s.cfg.maxContinuations.val →
    ∃ n : BitVec 8, n.toNat = s.xe.rounds.toNat + 1 ∧
      let x : Xe := { s.xe with
        frame := [0x00#8, 0xC0#8, 0x00#8, 0x00#8, l], rounds := n, state := .sending, txPending := false }
      exec (.getResponse l) s = .next { s with xe := x } ∧
      ∀ es, s.XeTurn es → s.xe.sw = some { sw1 := 0x61#8, sw2 := l } → step s = .next { s with events := es, xe := x }

/-- Rule R173: XE's step in `Done` delivers the body with the status word `90 00` and clears every register. The premise `Inv`
rules out the states in `Done` that no run reaches. -/
def Obligations.DoneDeliversTheBody : Prop :=
  ∀ (s : State) (es : List Event), s.Inv → s.XeTurn es → s.xe.state = .done →
    step s = .next { s with
      events := es,
      delivered := s.delivered ++ [.exchange (.ok { body := s.xe.body, sw := { sw1 := 0x90#8, sw2 := 0x00#8 } })],
      xe := { state := .idle, txPending := false, frame := [], body := [], sw := none, rounds := 0#8, session := none,
              error := none } }

/-- Rules R174 and R252: XE's step in `Failed` delivers the error, without the body, and clears every register. -/
def Obligations.FailedDeliversTheError : Prop :=
  ∀ (s : State) (es : List Event) (e : XeError), s.XeTurn es → s.xe.state = .failed → s.xe.error = some e →
    step s = .next { s with
      events := es, delivered := s.delivered ++ [.exchange (.error e)],
      xe := { state := .idle, txPending := false, frame := [], body := [], sw := none, rounds := 0#8, session := none,
              error := none } }

/-! ### Reset -/

/-- Rules R270 and R272: reset, at any time between steps, gives every XE register its reset value, whatever XE was doing, makes no
call and leaves the configuration; the state at power-on has the same registers, and there the block waits. Decision D10 asks
a model to prove nothing that rests on no result coming out after a reset, so the statement says nothing of what is delivered. -/
def Obligations.ResetClearsXeAndKeepsTheConfiguration : Prop :=
  (∀ (s : State) (es : List Event), s.EventTurn .reset es →
    ∃ t, step s = .next t ∧ t.cfg = s.cfg ∧ t.calls = s.calls ∧
      t.xe = { state := .idle, txPending := false, frame := [], body := [], sw := none, rounds := 0#8, session := none,
               error := none }) ∧
  State.reset.xe = { state := .idle, txPending := false, frame := [], body := [], sw := none, rounds := 0#8,
                     session := none, error := none } ∧
  step State.reset = .next State.reset

/-- Rule R271: an answer that comes when XE waits for none, or after another call has been made, is discarded: XE stays as it
is and no call is made. That answers are told apart by the number of their call is the model's choice (notes/assumptions/5),
and so is that another call may have been made on the handle of an abandoned one (notes/assumptions/17). As decision D10 asks,
nothing is said of what is delivered. -/
def Obligations.AbandonedAnswersAreDiscarded : Prop :=
  ∀ (s : State) (n : Nat) (a : Answer) (es : List Event), s.EventTurn (.answer n a) es →
    (s.xe.state ≠ .sending ∨ s.xe.txPending = false ∨ n ≠ s.calls.length) →
    ∃ t, step s = .next t ∧ t.xe = s.xe ∧ t.calls = s.calls ∧ t.cfg = s.cfg ∧ t.waiting = s.waiting ∧ t.events = es

/-! ### Status words and catalogs -/

/-- Rules R200 to R204: the four classes, tried in order: what each is exactly. -/
def Obligations.ClassificationInOrder : Prop :=
  ∀ (cfg : Config) (sw1 sw2 : Byte),
    (classify cfg sw1 sw2 = .success ↔ sw1 = 0x90#8 ∧ sw2 = 0x00#8) ∧
    (∀ n, classify cfg sw1 sw2 = .moreDataAvailable n ↔ sw1 = 0x61#8 ∧ n = sw2) ∧
    (∀ d, classify cfg sw1 sw2 = .warningOrError d ↔
      ¬(sw1 = 0x90#8 ∧ sw2 = 0x00#8) ∧ sw1 ≠ 0x61#8 ∧ cfg.swCatalog.lookup (code16 sw1 sw2) = some d) ∧
    (classify cfg sw1 sw2 = .unknown ↔
      ¬(sw1 = 0x90#8 ∧ sw2 = 0x00#8) ∧ sw1 ≠ 0x61#8 ∧ cfg.swCatalog.lookup (code16 sw1 sw2) = none)

/-- The last paragraph of rule R200: XE's next state agrees with the classification, and the description in `CardStatus` is the
one of the class. -/
def Obligations.EngineAgreesWithTheClassification : Prop :=
  ∀ (s : State) (pre : List Byte) (sw1 sw2 : Byte), s.xe.state = .sending → s.xe.txPending = true →
    ∃ t, exec (.response pre sw1 sw2) s = .next t ∧
      (t.xe.state = .done ↔ classify s.cfg sw1 sw2 = .success) ∧
      (t.xe.state = .awaitingContinuation ↔ ∃ n, classify s.cfg sw1 sw2 = .moreDataAvailable n) ∧
      (∀ d, classify s.cfg sw1 sw2 = .warningOrError d →
        t.xe.state = .failed ∧ t.xe.error = some (.cardStatus sw1 sw2 (some d))) ∧
      (classify s.cfg sw1 sw2 = .unknown → t.xe.state = .failed ∧ t.xe.error = some (.cardStatus sw1 sw2 none))

/-- Rules R206 and R210: DESCRIBE_SW delivers the entry of `SW_CATALOG`, none for an absent code and none above `0xFFFF`; it
writes nothing else, and never fails. -/
def Obligations.DescribeSwLooksUpTheStatusCatalog : Prop :=
  ∀ (s : State) (code : Code32),
    (∀ c : Code16, c.toNat = code.toNat →
      exec (.describeSw code) s = .next { s with delivered := s.delivered ++ [.description (s.cfg.swCatalog.lookup c)] }) ∧
    (0xFFFF < code.toNat →
      exec (.describeSw code) s = .next { s with delivered := s.delivered ++ [.description none] })

/-- Rules R207 and R208: DESCRIBE_TRANSPORT delivers the entry of `TRANSPORT_CATALOG` for any 32-bit code; neither request reads
the other's table. -/
def Obligations.DescribeTransportLooksUpItsOwnCatalog : Prop :=
  (∀ (s : State) (code : Code32),
    exec (.describeTransport code) s
      = .next { s with delivered := s.delivered ++ [.description (s.cfg.transportCatalog.lookup code)] }) ∧
  (∀ (cfg : Config) (code : Code32) (tc : List (Code32 × Description)),
    describeSwResult { cfg with transportCatalog := tc } code = describeSwResult cfg code) ∧
  (∀ (cfg : Config) (code : Code32) (sc : List (Code16 × Description)),
    transportCatalogAt { cfg with swCatalog := sc } code = transportCatalogAt cfg code)

/-- Rules R144 and R257: the three stateless requests leave XE, its calls and the waiting requests alone, and what they deliver
does not depend on XE. -/
def Obligations.StatelessRequestsAreIndependentOfXe : Prop :=
  ∀ (s : State) (x : Xe) (r : Request), (∀ session cmd, r ≠ .exchange session cmd) →
    ∃ t, exec r.instr s = .next t ∧ exec r.instr { s with xe := x } = .next { t with xe := x } ∧
      t.xe = s.xe ∧ t.calls = s.calls ∧ t.waiting = s.waiting ∧ t.cfg = s.cfg ∧
      ∃ d, t.delivered = s.delivered ++ [d]

/-! ### Whole-machine rules -/

/-- The invariant holds right after reset, whatever the configuration. -/
def Obligations.InvariantHoldsAtReset : Prop :=
  (∀ cfg : Config, (State.resetWith cfg).Inv) ∧ State.reset.Inv

/-- Rules R32 to R38, R51, R106 and R251: every step, whatever the host, the transport and the platform do, keeps the registers as
the rules leave them. -/
def Obligations.StepKeepsTheInvariant : Prop :=
  ∀ s t : State, s.Inv → step s = .next t → t.Inv

/-- Rules R143 and R247: no request, answer or reset stops the block. -/
def Obligations.BlockNeverStops : Prop :=
  ∀ s : State, s.Inv → ∃ t, step s = .next t

/-- Rules R40 to R42, R209 and R272: no step changes the configuration. -/
def Obligations.ConfigurationIsReadOnly : Prop :=
  ∀ s t : State, step s = .next t → t.cfg = s.cfg

/-- Rules R161, R164 and R272, for every instruction: it answers a next state and makes no transport call (only the issue step
does), it writes neither the configuration nor what is still to happen at the ports, and only a host request delivers a result in
its own step. That a row outside its place answers a next state, the state unchanged, instead of stopping is the model's choice
(notes/assumptions/4).
So it is that a row run without its step, with operands the state does not hold, or ill-formed goes on
(notes/assumptions/18, notes/assumptions/19, notes/assumptions/20). -/
def Obligations.InstructionsMakeNoCall : Prop :=
  ∀ (i : Instr) (s : State), ∃ t, exec i s = .next t ∧
    t.calls = s.calls ∧ t.cfg = s.cfg ∧ t.events = s.events ∧ t.picks = s.picks ∧
    ((∀ r : Request, i ≠ r.instr) → t.delivered = s.delivered ∧ t.waiting = s.waiting)

/-- Rules R67, R164, R175, R176 and R178: a step makes no call, or exactly one, with the latched session and `XE.frame`, and only
when no call is outstanding; the call is then outstanding. Outstanding means `XE.txPending = 1` (rule R32): a call that reset
abandoned does not count, also on the same handle, which is the model's choice (notes/assumptions/17). -/
def Obligations.OneCallAtATime : Prop :=
  ∀ s t : State, step s = .next t →
    t.calls = s.calls ∨
    (s.xe.state = .sending ∧ s.xe.txPending = false ∧ t.xe.state = .sending ∧ t.xe.txPending = true ∧
      t.xe.frame = s.xe.frame ∧
      ∃ session, s.xe.session = some session ∧ t.calls = s.calls ++ [{ session := session, frame := s.xe.frame }])

/-- Rules R75, R178 and R185: from acceptance to delivery or reset the latched session never changes. -/
def Obligations.SessionIsLatched : Prop :=
  ∀ s t : State, step s = .next t → s.xe.state ≠ .idle → t.xe.session = s.xe.session ∨ t.xe = Xe.reset

/-- Rules R51, R173, R174, R181 and R280: a step delivers at most one result, and one that delivers the result of an exchange
leaves every register at its reset value. -/
def Obligations.DeliveryLeavesNothingBehind : Prop :=
  ∀ s t : State, step s = .next t →
    t.delivered = s.delivered ∨
    ∃ r, t.delivered = s.delivered ++ [r] ∧ ((∃ x, r = .exchange x) → s.xe.state ≠ .idle ∧ t.xe = Xe.reset)

/-- Rule R179, step by step: the calls made and the calls still possible never grow together, and an accepted exchange starts with
`MAX_CONTINUATIONS + 1` of them.
In `AwaitingContinuation` with `XE.rounds` above the cap, which no run reaches, the first clause holds by
the model's choice that the exchange ends there too (notes/assumptions/7). -/
def Obligations.CallsAreBounded : Prop :=
  (∀ s t : State, s.xe.state ≠ .idle → step s = .next t →
    t.calls.length + t.xe.callsLeft t.cfg ≤ s.calls.length + s.xe.callsLeft s.cfg) ∧
  (∀ (s t : State) (session : Session) (cmd : ApduCommand), s.xe.state = .idle →
    exec (.exchange session cmd) s = .next t →
    t.calls = s.calls ∧ t.xe.callsLeft t.cfg ≤ s.cfg.maxContinuations.val + 1)

/-- Rules R179 and R279: under the premise `TransportAnswers`, every exchange in progress ends within its bound of steps, with one
result delivered, every register cleared, and at most `MAX_CONTINUATIONS + 1` calls. -/
def Obligations.ExchangeEndsWhenTheTransportAnswers : Prop :=
  ∀ (t : Nat → Answer) (s : State), s.Inv → s.events = [] → s.xe.state ≠ .idle →
    ∃ n u r, n ≤ s.xe.stepsLeft s.cfg ∧ drive t n s = .next u ∧ u.xe = Xe.reset ∧ u.events = [] ∧
      u.delivered = s.delivered ++ [.exchange r] ∧ u.waiting = s.waiting ∧
      u.calls.length ≤ s.calls.length + (s.cfg.maxContinuations.val + 1)

/-! ### Host text notation -/

/-- Rules R220 to R222: the notation of a byte sequence parses to it. -/
def Obligations.ByteNotationRoundTrip : Prop :=
  ∀ bs : List Byte, parseTokens (tokens (renderBytes bs)) = .ok bs

/-- Rules R222 and R223: a token is valid iff it is two hexadecimal digits, its value is `16 * hi + lo`, and the first invalid
token is the one named, as in rule R223's three examples. -/
def Obligations.FirstBadTokenIsNamed : Prop :=
  (∀ (t : List Char) (b : Byte), parseToken t = .ok b ↔
    ∃ h l hi lo, t = [h, l] ∧ hexDigit h = some hi ∧ hexDigit l = some lo ∧ b.toNat = 16 * hi + lo) ∧
  (∀ (pre : List (List Char)) (t : List Char) (post : List (List Char)),
    (∀ u ∈ pre, ∃ b, parseToken u = .ok b) → (∀ b, parseToken t ≠ .ok b) →
    parseTokens (pre ++ t :: post) = .error { token := String.ofList t }) ∧
  parseBytes "3B 6" = .error { token := "6" } ∧ parseBytes "3B 0G" = .error { token := "0G" } ∧
  parseBytes "3B00" = .error { token := "3B00" }
end

