-- ==== Sys2Proof/Laws/Codec.lean ====
section
/-! SUPPORT. The small facts about fields and frames: nibbles and status-word codes are put together and taken apart without
loss, and the length of a frame. -/

namespace Sys2Proof

@[simp] theorem hiNibble_ofNibbles (hi lo : Nibble) : hiNibble (ofNibbles hi lo) = hi := by
  revert hi lo; decide

@[simp] theorem loNibble_ofNibbles (hi lo : Nibble) : loNibble (ofNibbles hi lo) = lo := by
  revert hi lo; decide

@[simp] theorem ofNibbles_hiNibble_loNibble (b : Byte) : ofNibbles (hiNibble b) (loNibble b) = b := by
  revert b; decide

theorem code16_toNat (a b : Byte) : (code16 a b).toNat = a.toNat * 256 + b.toNat := by
  unfold code16
  have hb := b.isLt
  rw [BitVec.toNat_append, Nat.shiftLeft_eq, Nat.mul_comm, ← Nat.two_pow_add_eq_or_of_lt hb]

@[simp] theorem code16Hi_code16 (a b : Byte) : code16Hi (code16 a b) = a := by
  have h := code16_toNat a b
  have ha := a.isLt
  have hb := b.isLt
  apply BitVec.eq_of_toNat_eq
  simp only [code16Hi, BitVec.extractLsb'_toNat, h, Nat.shiftRight_eq_div_pow]
  omega

@[simp] theorem code16Lo_code16 (a b : Byte) : code16Lo (code16 a b) = b := by
  have h := code16_toNat a b
  have hb := b.isLt
  apply BitVec.eq_of_toNat_eq
  simp only [code16Lo, BitVec.extractLsb'_toNat, h, Nat.shiftRight_eq_div_pow]
  omega

theorem apduFrame_length (cla ins p1 p2 : Byte) (data : List Byte) (le : Option Byte) :
    (apduFrame cla ins p1 p2 data le).length
      = 4 + (if data.isEmpty then 0 else data.length + 1) + le.toList.length := by
  unfold apduFrame
  split <;> simp +arith

@[simp] theorem getResponseFrame_length (l : Byte) : (getResponseFrame l).length = 5 := rfl

theorem bytesOfWord_length (n w : Nat) : (bytesOfWord n w).length = n := by
  induction n generalizing w with
  | zero => rfl
  | succ n ih => simp [bytesOfWord, ih]

end Sys2Proof
end

