-- ==== Sys2Proof/Laws/State.lean ====
section
/-! SUPPORT. One lemma per field per update of the machine's records: what each named update writes, and that it leaves every
other field alone. -/

namespace Sys2Proof.Machine

open Sys2Proof

/-! ### State -/

/-! `State.withXe` -/

@[simp] theorem State.withXe_cfg (s : State) (x : Xe) : (s.withXe x).cfg = s.cfg := rfl
@[simp] theorem State.withXe_xe (s : State) (x : Xe) : (s.withXe x).xe = x := rfl
@[simp] theorem State.withXe_waiting (s : State) (x : Xe) : (s.withXe x).waiting = s.waiting := rfl
@[simp] theorem State.withXe_picks (s : State) (x : Xe) : (s.withXe x).picks = s.picks := rfl
@[simp] theorem State.withXe_events (s : State) (x : Xe) : (s.withXe x).events = s.events := rfl
@[simp] theorem State.withXe_calls (s : State) (x : Xe) : (s.withXe x).calls = s.calls := rfl
@[simp] theorem State.withXe_delivered (s : State) (x : Xe) : (s.withXe x).delivered = s.delivered := rfl
@[simp] theorem State.withXe_atrd (s : State) (x : Xe) : (s.withXe x).atrd = s.atrd := rfl

/-! `State.withAtrd` -/

@[simp] theorem State.withAtrd_cfg (s : State) (w : AtrWork) : (s.withAtrd w).cfg = s.cfg := rfl
@[simp] theorem State.withAtrd_xe (s : State) (w : AtrWork) : (s.withAtrd w).xe = s.xe := rfl
@[simp] theorem State.withAtrd_waiting (s : State) (w : AtrWork) : (s.withAtrd w).waiting = s.waiting := rfl
@[simp] theorem State.withAtrd_picks (s : State) (w : AtrWork) : (s.withAtrd w).picks = s.picks := rfl
@[simp] theorem State.withAtrd_events (s : State) (w : AtrWork) : (s.withAtrd w).events = s.events := rfl
@[simp] theorem State.withAtrd_calls (s : State) (w : AtrWork) : (s.withAtrd w).calls = s.calls := rfl
@[simp] theorem State.withAtrd_delivered (s : State) (w : AtrWork) : (s.withAtrd w).delivered = s.delivered := rfl
@[simp] theorem State.withAtrd_atrd (s : State) (w : AtrWork) : (s.withAtrd w).atrd = w := rfl

/-! `State.withEvents` -/

@[simp] theorem State.withEvents_cfg (s : State) (es : List Event) : (s.withEvents es).cfg = s.cfg := rfl
@[simp] theorem State.withEvents_xe (s : State) (es : List Event) : (s.withEvents es).xe = s.xe := rfl
@[simp] theorem State.withEvents_waiting (s : State) (es : List Event) : (s.withEvents es).waiting = s.waiting := rfl
@[simp] theorem State.withEvents_picks (s : State) (es : List Event) : (s.withEvents es).picks = s.picks := rfl
@[simp] theorem State.withEvents_events (s : State) (es : List Event) : (s.withEvents es).events = es := rfl
@[simp] theorem State.withEvents_calls (s : State) (es : List Event) : (s.withEvents es).calls = s.calls := rfl
@[simp] theorem State.withEvents_delivered (s : State) (es : List Event) : (s.withEvents es).delivered = s.delivered := rfl
@[simp] theorem State.withEvents_atrd (s : State) (es : List Event) : (s.withEvents es).atrd = s.atrd := rfl

/-! `State.deliver` -/

@[simp] theorem State.deliver_cfg (s : State) (r : HostResult) : (s.deliver r).cfg = s.cfg := rfl
@[simp] theorem State.deliver_xe (s : State) (r : HostResult) : (s.deliver r).xe = s.xe := rfl
@[simp] theorem State.deliver_waiting (s : State) (r : HostResult) : (s.deliver r).waiting = s.waiting := rfl
@[simp] theorem State.deliver_picks (s : State) (r : HostResult) : (s.deliver r).picks = s.picks := rfl
@[simp] theorem State.deliver_events (s : State) (r : HostResult) : (s.deliver r).events = s.events := rfl
@[simp] theorem State.deliver_calls (s : State) (r : HostResult) : (s.deliver r).calls = s.calls := rfl
@[simp] theorem State.deliver_delivered (s : State) (r : HostResult) : (s.deliver r).delivered = s.delivered ++ [r] := rfl
@[simp] theorem State.deliver_atrd (s : State) (r : HostResult) : (s.deliver r).atrd = s.atrd := rfl

/-! `State.enqueue` -/

@[simp] theorem State.enqueue_cfg (s : State) (ses : Session) (cmd : ApduCommand) : (s.enqueue ses cmd).cfg = s.cfg := rfl
@[simp] theorem State.enqueue_xe (s : State) (ses : Session) (cmd : ApduCommand) : (s.enqueue ses cmd).xe = s.xe := rfl
@[simp] theorem State.enqueue_waiting (s : State) (ses : Session) (cmd : ApduCommand) : (s.enqueue ses cmd).waiting = s.waiting ++ [(ses, cmd)] := rfl
@[simp] theorem State.enqueue_picks (s : State) (ses : Session) (cmd : ApduCommand) : (s.enqueue ses cmd).picks = s.picks := rfl
@[simp] theorem State.enqueue_events (s : State) (ses : Session) (cmd : ApduCommand) : (s.enqueue ses cmd).events = s.events := rfl
@[simp] theorem State.enqueue_calls (s : State) (ses : Session) (cmd : ApduCommand) : (s.enqueue ses cmd).calls = s.calls := rfl
@[simp] theorem State.enqueue_delivered (s : State) (ses : Session) (cmd : ApduCommand) : (s.enqueue ses cmd).delivered = s.delivered := rfl
@[simp] theorem State.enqueue_atrd (s : State) (ses : Session) (cmd : ApduCommand) : (s.enqueue ses cmd).atrd = s.atrd := rfl

/-! `State.call` -/

@[simp] theorem State.call_cfg (s : State) (ses : Session) (frame : List Byte) : (s.call ses frame).cfg = s.cfg := rfl
@[simp] theorem State.call_xe (s : State) (ses : Session) (frame : List Byte) : (s.call ses frame).xe = s.xe := rfl
@[simp] theorem State.call_waiting (s : State) (ses : Session) (frame : List Byte) : (s.call ses frame).waiting = s.waiting := rfl
@[simp] theorem State.call_picks (s : State) (ses : Session) (frame : List Byte) : (s.call ses frame).picks = s.picks := rfl
@[simp] theorem State.call_events (s : State) (ses : Session) (frame : List Byte) : (s.call ses frame).events = s.events := rfl
@[simp] theorem State.call_calls (s : State) (ses : Session) (frame : List Byte) : (s.call ses frame).calls = s.calls ++ [{ session := ses, frame := frame }] := rfl
@[simp] theorem State.call_delivered (s : State) (ses : Session) (frame : List Byte) : (s.call ses frame).delivered = s.delivered := rfl
@[simp] theorem State.call_atrd (s : State) (ses : Session) (frame : List Byte) : (s.call ses frame).atrd = s.atrd := rfl

/-! `State.enterError` -/

@[simp] theorem State.enterError_cfg (s : State) (e : XeError) : (s.enterError e).cfg = s.cfg := rfl
@[simp] theorem State.enterError_xe (s : State) (e : XeError) : (s.enterError e).xe = s.xe.enterError e := rfl
@[simp] theorem State.enterError_waiting (s : State) (e : XeError) : (s.enterError e).waiting = s.waiting := rfl
@[simp] theorem State.enterError_picks (s : State) (e : XeError) : (s.enterError e).picks = s.picks := rfl
@[simp] theorem State.enterError_events (s : State) (e : XeError) : (s.enterError e).events = s.events := rfl
@[simp] theorem State.enterError_calls (s : State) (e : XeError) : (s.enterError e).calls = s.calls := rfl
@[simp] theorem State.enterError_delivered (s : State) (e : XeError) : (s.enterError e).delivered = s.delivered := rfl
@[simp] theorem State.enterError_atrd (s : State) (e : XeError) : (s.enterError e).atrd = s.atrd := rfl

/-! `State.leaveError` -/

@[simp] theorem State.leaveError_cfg (s : State) (e : XeError) : (s.leaveError e).cfg = s.cfg := rfl
@[simp] theorem State.leaveError_xe (s : State) (e : XeError) : (s.leaveError e).xe = Xe.reset := rfl
@[simp] theorem State.leaveError_waiting (s : State) (e : XeError) : (s.leaveError e).waiting = s.waiting := rfl
@[simp] theorem State.leaveError_picks (s : State) (e : XeError) : (s.leaveError e).picks = s.picks := rfl
@[simp] theorem State.leaveError_events (s : State) (e : XeError) : (s.leaveError e).events = s.events := rfl
@[simp] theorem State.leaveError_calls (s : State) (e : XeError) : (s.leaveError e).calls = s.calls := rfl
@[simp] theorem State.leaveError_delivered (s : State) (e : XeError) : (s.leaveError e).delivered = s.delivered ++ [.exchange (.error e)] := rfl
@[simp] theorem State.leaveError_atrd (s : State) (e : XeError) : (s.leaveError e).atrd = s.atrd := rfl

/-! `State.deliverOk` -/

@[simp] theorem State.deliverOk_cfg (s : State) (sw : StatusWord) : (s.deliverOk sw).cfg = s.cfg := rfl
@[simp] theorem State.deliverOk_xe (s : State) (sw : StatusWord) : (s.deliverOk sw).xe = Xe.reset := rfl
@[simp] theorem State.deliverOk_waiting (s : State) (sw : StatusWord) : (s.deliverOk sw).waiting = s.waiting := rfl
@[simp] theorem State.deliverOk_picks (s : State) (sw : StatusWord) : (s.deliverOk sw).picks = s.picks := rfl
@[simp] theorem State.deliverOk_events (s : State) (sw : StatusWord) : (s.deliverOk sw).events = s.events := rfl
@[simp] theorem State.deliverOk_calls (s : State) (sw : StatusWord) : (s.deliverOk sw).calls = s.calls := rfl
@[simp] theorem State.deliverOk_delivered (s : State) (sw : StatusWord) : (s.deliverOk sw).delivered = s.delivered ++ [.exchange (.ok { body := s.xe.body, sw := sw })] := rfl
@[simp] theorem State.deliverOk_atrd (s : State) (sw : StatusWord) : (s.deliverOk sw).atrd = s.atrd := rfl

/-! `State.issue` -/

@[simp] theorem State.issue_cfg (s : State) (ses : Session) : (s.issue ses).cfg = s.cfg := rfl
@[simp] theorem State.issue_xe (s : State) (ses : Session) : (s.issue ses).xe = s.xe.markIssued := rfl
@[simp] theorem State.issue_waiting (s : State) (ses : Session) : (s.issue ses).waiting = s.waiting := rfl
@[simp] theorem State.issue_picks (s : State) (ses : Session) : (s.issue ses).picks = s.picks := rfl
@[simp] theorem State.issue_events (s : State) (ses : Session) : (s.issue ses).events = s.events := rfl
@[simp] theorem State.issue_calls (s : State) (ses : Session) : (s.issue ses).calls = s.calls ++ [{ session := ses, frame := s.xe.frame }] := rfl
@[simp] theorem State.issue_delivered (s : State) (ses : Session) : (s.issue ses).delivered = s.delivered := rfl
@[simp] theorem State.issue_atrd (s : State) (ses : Session) : (s.issue ses).atrd = s.atrd := rfl

/-! `State.transportFailed` -/

@[simp] theorem State.transportFailed_cfg (s : State) (info : Info) : (s.transportFailed info).cfg = s.cfg := rfl
@[simp] theorem State.transportFailed_xe (s : State) (info : Info) : (s.transportFailed info).xe = s.xe.enterError (.transportFailure info) := rfl
@[simp] theorem State.transportFailed_waiting (s : State) (info : Info) : (s.transportFailed info).waiting = s.waiting := rfl
@[simp] theorem State.transportFailed_picks (s : State) (info : Info) : (s.transportFailed info).picks = s.picks := rfl
@[simp] theorem State.transportFailed_events (s : State) (info : Info) : (s.transportFailed info).events = s.events := rfl
@[simp] theorem State.transportFailed_calls (s : State) (info : Info) : (s.transportFailed info).calls = s.calls := rfl
@[simp] theorem State.transportFailed_delivered (s : State) (info : Info) : (s.transportFailed info).delivered = s.delivered := rfl
@[simp] theorem State.transportFailed_atrd (s : State) (info : Info) : (s.transportFailed info).atrd = s.atrd := rfl

/-! `State.resetBlock` -/

@[simp] theorem State.resetBlock_cfg (s : State) : s.resetBlock.cfg = s.cfg := rfl
@[simp] theorem State.resetBlock_xe (s : State) : s.resetBlock.xe = Xe.reset := rfl
@[simp] theorem State.resetBlock_waiting (s : State) : s.resetBlock.waiting = s.waiting := rfl
@[simp] theorem State.resetBlock_picks (s : State) : s.resetBlock.picks = s.picks := rfl
@[simp] theorem State.resetBlock_events (s : State) : s.resetBlock.events = s.events := rfl
@[simp] theorem State.resetBlock_calls (s : State) : s.resetBlock.calls = s.calls := rfl
@[simp] theorem State.resetBlock_delivered (s : State) : s.resetBlock.delivered = s.delivered := rfl
@[simp] theorem State.resetBlock_atrd (s : State) : s.resetBlock.atrd = s.atrd := rfl

/-! `State.finishAtr` -/

@[simp] theorem State.finishAtr_cfg (s : State) : s.finishAtr.cfg = s.cfg := rfl
@[simp] theorem State.finishAtr_xe (s : State) : s.finishAtr.xe = s.xe := rfl
@[simp] theorem State.finishAtr_waiting (s : State) : s.finishAtr.waiting = s.waiting := rfl
@[simp] theorem State.finishAtr_picks (s : State) : s.finishAtr.picks = s.picks := rfl
@[simp] theorem State.finishAtr_events (s : State) : s.finishAtr.events = s.events := rfl
@[simp] theorem State.finishAtr_calls (s : State) : s.finishAtr.calls = s.calls := rfl
@[simp] theorem State.finishAtr_delivered (s : State) : s.finishAtr.delivered = s.delivered ++ [.atr s.atrd.result] := rfl
@[simp] theorem State.finishAtr_atrd (s : State) : s.finishAtr.atrd = AtrWork.idle := rfl

/-! ### The XE registers -/

/-! `Xe.enterError` -/

@[simp] theorem Xe.enterError_state (x : Xe) (e : XeError) : (x.enterError e).state = .failed := rfl
@[simp] theorem Xe.enterError_txPending (x : Xe) (e : XeError) : (x.enterError e).txPending = false := rfl
@[simp] theorem Xe.enterError_frame (x : Xe) (e : XeError) : (x.enterError e).frame = x.frame := rfl
@[simp] theorem Xe.enterError_body (x : Xe) (e : XeError) : (x.enterError e).body = x.body := rfl
@[simp] theorem Xe.enterError_sw (x : Xe) (e : XeError) : (x.enterError e).sw = x.sw := rfl
@[simp] theorem Xe.enterError_rounds (x : Xe) (e : XeError) : (x.enterError e).rounds = x.rounds := rfl
@[simp] theorem Xe.enterError_session (x : Xe) (e : XeError) : (x.enterError e).session = x.session := rfl
@[simp] theorem Xe.enterError_error (x : Xe) (e : XeError) : (x.enterError e).error = some e := rfl

/-! `Xe.putFrame` -/

@[simp] theorem Xe.putFrame_state (x : Xe) (f : List Byte) : (x.putFrame f).state = x.state := rfl
@[simp] theorem Xe.putFrame_txPending (x : Xe) (f : List Byte) : (x.putFrame f).txPending = x.txPending := rfl
@[simp] theorem Xe.putFrame_frame (x : Xe) (f : List Byte) : (x.putFrame f).frame = f := rfl
@[simp] theorem Xe.putFrame_body (x : Xe) (f : List Byte) : (x.putFrame f).body = x.body := rfl
@[simp] theorem Xe.putFrame_sw (x : Xe) (f : List Byte) : (x.putFrame f).sw = x.sw := rfl
@[simp] theorem Xe.putFrame_rounds (x : Xe) (f : List Byte) : (x.putFrame f).rounds = x.rounds := rfl
@[simp] theorem Xe.putFrame_session (x : Xe) (f : List Byte) : (x.putFrame f).session = x.session := rfl
@[simp] theorem Xe.putFrame_error (x : Xe) (f : List Byte) : (x.putFrame f).error = x.error := rfl

/-! `Xe.accept` -/

@[simp] theorem Xe.accept_state (x : Xe) (ses : Session) : (x.accept ses).state = .sending := rfl
@[simp] theorem Xe.accept_txPending (x : Xe) (ses : Session) : (x.accept ses).txPending = false := rfl
@[simp] theorem Xe.accept_frame (x : Xe) (ses : Session) : (x.accept ses).frame = x.frame := rfl
@[simp] theorem Xe.accept_body (x : Xe) (ses : Session) : (x.accept ses).body = [] := rfl
@[simp] theorem Xe.accept_sw (x : Xe) (ses : Session) : (x.accept ses).sw = none := rfl
@[simp] theorem Xe.accept_rounds (x : Xe) (ses : Session) : (x.accept ses).rounds = 0#8 := rfl
@[simp] theorem Xe.accept_session (x : Xe) (ses : Session) : (x.accept ses).session = some ses := rfl
@[simp] theorem Xe.accept_error (x : Xe) (ses : Session) : (x.accept ses).error = none := rfl

/-! `Xe.markIssued` -/

@[simp] theorem Xe.markIssued_state (x : Xe) : x.markIssued.state = x.state := rfl
@[simp] theorem Xe.markIssued_txPending (x : Xe) : x.markIssued.txPending = true := rfl
@[simp] theorem Xe.markIssued_frame (x : Xe) : x.markIssued.frame = x.frame := rfl
@[simp] theorem Xe.markIssued_body (x : Xe) : x.markIssued.body = x.body := rfl
@[simp] theorem Xe.markIssued_sw (x : Xe) : x.markIssued.sw = x.sw := rfl
@[simp] theorem Xe.markIssued_rounds (x : Xe) : x.markIssued.rounds = x.rounds := rfl
@[simp] theorem Xe.markIssued_session (x : Xe) : x.markIssued.session = x.session := rfl
@[simp] theorem Xe.markIssued_error (x : Xe) : x.markIssued.error = x.error := rfl

/-! `Xe.takeResponse` -/

@[simp] theorem Xe.takeResponse_state (x : Xe) (pre : List Byte) (a b : Byte) : (x.takeResponse pre a b).state = x.state := rfl
@[simp] theorem Xe.takeResponse_txPending (x : Xe) (pre : List Byte) (a b : Byte) : (x.takeResponse pre a b).txPending = false := rfl
@[simp] theorem Xe.takeResponse_frame (x : Xe) (pre : List Byte) (a b : Byte) : (x.takeResponse pre a b).frame = x.frame := rfl
@[simp] theorem Xe.takeResponse_body (x : Xe) (pre : List Byte) (a b : Byte) : (x.takeResponse pre a b).body = x.body ++ pre := rfl
@[simp] theorem Xe.takeResponse_sw (x : Xe) (pre : List Byte) (a b : Byte) : (x.takeResponse pre a b).sw = some { sw1 := a, sw2 := b } := rfl
@[simp] theorem Xe.takeResponse_rounds (x : Xe) (pre : List Byte) (a b : Byte) : (x.takeResponse pre a b).rounds = x.rounds := rfl
@[simp] theorem Xe.takeResponse_session (x : Xe) (pre : List Byte) (a b : Byte) : (x.takeResponse pre a b).session = x.session := rfl
@[simp] theorem Xe.takeResponse_error (x : Xe) (pre : List Byte) (a b : Byte) : (x.takeResponse pre a b).error = x.error := rfl

/-! `Xe.moveTo` -/

@[simp] theorem Xe.moveTo_state (x : Xe) (st : XeState) : (x.moveTo st).state = st := rfl
@[simp] theorem Xe.moveTo_txPending (x : Xe) (st : XeState) : (x.moveTo st).txPending = x.txPending := rfl
@[simp] theorem Xe.moveTo_frame (x : Xe) (st : XeState) : (x.moveTo st).frame = x.frame := rfl
@[simp] theorem Xe.moveTo_body (x : Xe) (st : XeState) : (x.moveTo st).body = x.body := rfl
@[simp] theorem Xe.moveTo_sw (x : Xe) (st : XeState) : (x.moveTo st).sw = x.sw := rfl
@[simp] theorem Xe.moveTo_rounds (x : Xe) (st : XeState) : (x.moveTo st).rounds = x.rounds := rfl
@[simp] theorem Xe.moveTo_session (x : Xe) (st : XeState) : (x.moveTo st).session = x.session := rfl
@[simp] theorem Xe.moveTo_error (x : Xe) (st : XeState) : (x.moveTo st).error = x.error := rfl

/-! `Xe.continueWith` -/

@[simp] theorem Xe.continueWith_state (x : Xe) (l : Byte) : (x.continueWith l).state = .sending := rfl
@[simp] theorem Xe.continueWith_txPending (x : Xe) (l : Byte) : (x.continueWith l).txPending = false := rfl
@[simp] theorem Xe.continueWith_frame (x : Xe) (l : Byte) : (x.continueWith l).frame = getResponseFrame l := rfl
@[simp] theorem Xe.continueWith_body (x : Xe) (l : Byte) : (x.continueWith l).body = x.body := rfl
@[simp] theorem Xe.continueWith_sw (x : Xe) (l : Byte) : (x.continueWith l).sw = x.sw := rfl
@[simp] theorem Xe.continueWith_rounds (x : Xe) (l : Byte) : (x.continueWith l).rounds = x.rounds + 1#8 := rfl
@[simp] theorem Xe.continueWith_session (x : Xe) (l : Byte) : (x.continueWith l).session = x.session := rfl
@[simp] theorem Xe.continueWith_error (x : Xe) (l : Byte) : (x.continueWith l).error = x.error := rfl

/-! `Xe.reset` (rule R270) -/

@[simp] theorem Xe.reset_state : Xe.reset.state = .idle := rfl
@[simp] theorem Xe.reset_txPending : Xe.reset.txPending = false := rfl
@[simp] theorem Xe.reset_frame : Xe.reset.frame = [] := rfl
@[simp] theorem Xe.reset_body : Xe.reset.body = [] := rfl
@[simp] theorem Xe.reset_sw : Xe.reset.sw = none := rfl
@[simp] theorem Xe.reset_rounds : Xe.reset.rounds = 0#8 := rfl
@[simp] theorem Xe.reset_session : Xe.reset.session = none := rfl
@[simp] theorem Xe.reset_error : Xe.reset.error = none := rfl

/-! ### Updates that meet -/

@[simp] theorem State.withXe_self (s : State) : s.withXe s.xe = s := rfl
@[simp] theorem State.withAtrd_self (s : State) : s.withAtrd s.atrd = s := rfl
@[simp] theorem State.withEvents_self (s : State) : s.withEvents s.events = s := rfl
@[simp] theorem State.withXe_withXe (s : State) (x y : Xe) : (s.withXe x).withXe y = s.withXe y := rfl
@[simp] theorem State.withAtrd_withAtrd (s : State) (v w : AtrWork) : (s.withAtrd v).withAtrd w = s.withAtrd w := rfl
@[simp] theorem State.withEvents_withEvents (s : State) (d e : List Event) :
    (s.withEvents d).withEvents e = s.withEvents e := rfl

/-! ### The decoder's working variables -/

/-! `AtrWork.fail` -/

@[simp] theorem AtrWork.fail_active (w : AtrWork) (r : Malformed) : (w.fail r).active = w.active := rfl
@[simp] theorem AtrWork.fail_raw (w : AtrWork) (r : Malformed) : (w.fail r).raw = w.raw := rfl
@[simp] theorem AtrWork.fail_cur (w : AtrWork) (r : Malformed) : (w.fail r).cur = w.cur := rfl
@[simp] theorem AtrWork.fail_phase (w : AtrWork) (r : Malformed) : (w.fail r).phase = w.phase := rfl
@[simp] theorem AtrWork.fail_error (w : AtrWork) (r : Malformed) : (w.fail r).error = some r := rfl

/-! `AtrWork.advance` -/

@[simp] theorem AtrWork.advance_active (w : AtrWork) (id : FieldId) (b : Nibble) : (w.advance id b).active = w.active := rfl
@[simp] theorem AtrWork.advance_raw (w : AtrWork) (id : FieldId) (b : Nibble) : (w.advance id b).raw = w.raw := rfl
@[simp] theorem AtrWork.advance_cur (w : AtrWork) (id : FieldId) (b : Nibble) : (w.advance id b).cur = w.cur + 1 := rfl
@[simp] theorem AtrWork.advance_order (w : AtrWork) (id : FieldId) (b : Nibble) :
    (w.advance id b).order = w.order ++ [id] := rfl
@[simp] theorem AtrWork.advance_mask (w : AtrWork) (id : FieldId) (b : Nibble) :
    (w.advance id b).mask = w.mask &&& ~~~b := rfl
@[simp] theorem AtrWork.advance_error (w : AtrWork) (id : FieldId) (b : Nibble) : (w.advance id b).error = w.error := rfl
@[simp] theorem AtrWork.advance_group (w : AtrWork) (id : FieldId) (b : Nibble) : (w.advance id b).group = w.group := rfl
@[simp] theorem AtrWork.advance_groups (w : AtrWork) (id : FieldId) (b : Nibble) : (w.advance id b).groups = w.groups := rfl
@[simp] theorem AtrWork.advance_idx (w : AtrWork) (id : FieldId) (b : Nibble) : (w.advance id b).idx = w.idx := rfl
@[simp] theorem AtrWork.advance_k (w : AtrWork) (id : FieldId) (b : Nibble) : (w.advance id b).k = w.k := rfl
@[simp] theorem AtrWork.advance_anyNonT0 (w : AtrWork) (id : FieldId) (b : Nibble) :
    (w.advance id b).anyNonT0 = w.anyNonT0 := rfl

/-! `AtrWork.closeGroup` writes the groups and the phase, nothing else (rule R129). -/

@[simp] theorem AtrWork.closeGroup_active (w : AtrWork) : w.closeGroup.active = w.active := by
  unfold AtrWork.closeGroup; split <;> rfl
@[simp] theorem AtrWork.closeGroup_raw (w : AtrWork) : w.closeGroup.raw = w.raw := by
  unfold AtrWork.closeGroup; split <;> rfl
@[simp] theorem AtrWork.closeGroup_cur (w : AtrWork) : w.closeGroup.cur = w.cur := by
  unfold AtrWork.closeGroup; split <;> rfl
@[simp] theorem AtrWork.closeGroup_order (w : AtrWork) : w.closeGroup.order = w.order := by
  unfold AtrWork.closeGroup; split <;> rfl
@[simp] theorem AtrWork.closeGroup_mask (w : AtrWork) : w.closeGroup.mask = w.mask := by
  unfold AtrWork.closeGroup; split <;> rfl
@[simp] theorem AtrWork.closeGroup_error (w : AtrWork) : w.closeGroup.error = w.error := by
  unfold AtrWork.closeGroup; split <;> rfl
@[simp] theorem AtrWork.closeGroup_k (w : AtrWork) : w.closeGroup.k = w.k := by
  unfold AtrWork.closeGroup; split <;> rfl
@[simp] theorem AtrWork.closeGroup_idx (w : AtrWork) : w.closeGroup.idx = w.idx := by
  unfold AtrWork.closeGroup; split <;> rfl
@[simp] theorem AtrWork.closeGroup_anyNonT0 (w : AtrWork) : w.closeGroup.anyNonT0 = w.anyNonT0 := by
  unfold AtrWork.closeGroup; split <;> rfl

end Sys2Proof.Machine
end

