-- ==== Sys2Proof/Laws/Atr.lean ====
section
/-! SUPPORT. What the shared operations of the ATR decoder can do, each said once: the place of a decode, the consumption of the
bytes at a place, and the run of the character rows. -/

namespace Sys2Proof.Machine

open Sys2Proof

/-! ### The place -/

theorem place_eq_some (w : AtrWork) (slot : Slot) :
    w.place = some slot ↔ w.active = true ∧ w.error = none ∧ w.phasePlace = some slot := by
  unfold AtrWork.place
  split <;> simp_all

@[simp] theorem place_idle : AtrWork.idle.place = none := rfl

/-- After an error nothing is awaited (rule R248). -/
theorem place_of_error (w : AtrWork) (r : Malformed) (h : w.error = some r) : w.place = none := by
  simp [AtrWork.place, h]

/-- In a group something is awaited as long as a presence bit is left (rules R87, R124). -/
theorem groupPlace_eq_none (w : AtrWork) : w.groupPlace = none ↔ w.mask = 0#4 := by
  have bits : ∀ m : Nibble, m = 0#4 ↔
      m.getLsbD 0 = false ∧ m.getLsbD 1 = false ∧ m.getLsbD 2 = false ∧ m.getLsbD 3 = false := by decide
  rw [bits]
  unfold AtrWork.groupPlace
  split <;> simp_all
  split <;> simp_all
  split <;> simp_all

/-! ### Consumption -/

/-- The bytes are not the awaited ones: nothing is written. -/
theorem consume_elsewhere (w : AtrWork) (slot : Slot) (f : AtrWork → AtrWork) (h : w.place ≠ some slot) :
    w.consume slot f = w := by
  simp [AtrWork.consume, h]

/-- The bytes are awaited and the check before them passes. -/
theorem consume_here (w : AtrWork) (slot : Slot) (f : AtrWork → AtrWork) (h : w.place = some slot)
    (hs : w.shortfall slot = none) : w.consume slot f = f w := by
  simp [AtrWork.consume, h, hs]

/-- The bytes are awaited and the check before them fails. -/
theorem consume_short (w : AtrWork) (slot : Slot) (f : AtrWork → AtrWork) (r : Malformed) (h : w.place = some slot)
    (hs : w.shortfall slot = some r) : w.consume slot f = w.fail r := by
  simp [AtrWork.consume, h, hs]

theorem isTruncated_iff (w : AtrWork) :
    w.isTruncated = true ↔ w.cur + 1 + (w.k + if w.anyNonT0 then 1 else 0) > w.raw.length := by
  exact decide_eq_true_iff

/-! ### Runs -/

theorem run_done (cfg : Config) (n : Nat) (w : AtrWork) (h : w.place = none) : AtrWork.run cfg n w = w := by
  cases n <;> simp [AtrWork.run, h]

theorem run_next (cfg : Config) (n : Nat) (w : AtrWork) (h : w.place ≠ none) :
    AtrWork.run cfg (n + 1) w = AtrWork.run cfg n (w.tick cfg) := by
  simp [AtrWork.run, h]

/-- A run in two parts. -/
theorem run_add (cfg : Config) (m n : Nat) (w : AtrWork) :
    AtrWork.run cfg (m + n) w = AtrWork.run cfg n (AtrWork.run cfg m w) := by
  induction m generalizing w with
  | zero => simp [AtrWork.run]
  | succ m ih =>
    by_cases h : w.place = none
    · rw [run_done cfg _ w h, run_done cfg _ w h, run_done cfg _ w h]
    · rw [Nat.succ_add, run_next cfg _ w h, run_next cfg _ w h, ih]

theorem tick_fetched (cfg : Config) (w : AtrWork) (i : Instr) (h : w.fetch = some i) : w.tick cfg = w.row cfg i := by
  simp [AtrWork.tick, h]

theorem tick_short (cfg : Config) (w : AtrWork) (h : w.fetch = none) : w.tick cfg = w.failShort := by
  simp [AtrWork.tick, h]

/-! ### The start and the end -/

/-- Fewer than two bytes: the decode is over before it reads anything (rule R121). -/
theorem start_short (raw : List Byte) (h : raw.length < 2) : (AtrWork.start raw).error = some .tooShort := by
  simp [AtrWork.start, h]

theorem start_place (raw : List Byte) (h : 2 ≤ raw.length) : (AtrWork.start raw).place = some .ts := by
  have : ¬raw.length < 2 := by omega
  simp [AtrWork.start, AtrWork.place, AtrWork.phasePlace, AtrWork.idle, this]

theorem result_of_error (w : AtrWork) (r : Malformed) (h : w.error = some r) : w.result = .error r := by
  simp [AtrWork.result, h]

theorem runAtr_short (cfg : Config) (raw : List Byte) (h : raw.length < 2) : runAtr cfg raw = .error .tooShort := by
  have he := start_short raw h
  unfold runAtr
  rw [run_done cfg _ _ (place_of_error _ _ he), result_of_error _ _ he]

/-- A record is built only when the whole input has been read (rules R134, R140). -/
theorem result_ok (w : AtrWork) (r : AtrRecord) (h : w.result = .ok r) :
    w.error = none ∧ w.cur = w.raw.length ∧
      r = { initialCharacter := w.conv, formatByte := w.t0, interfaceGroups := w.groups, historicalBytes := w.hist,
            checkByte := w.tck, fieldOrder := w.order, fi := w.fi, di := w.di } := by
  unfold AtrWork.result at h
  split at h
  · cases h
  · split at h
    · injection h with h
      exact ⟨‹_›, ‹_›, h.symm⟩
    · cases h

end Sys2Proof.Machine
end

