-- ==== Sys2Proof/Laws/Exchange.lean ====
section
/-! SUPPORT. What the shared operations of the exchange engine and the meanings made of them can do, each said once: the
provers cite these instead of unfolding. -/

namespace Sys2Proof.Machine

open Sys2Proof

/-! ### The conditions on the registers -/

theorem waitsForAnswer_iff (x : Xe) : x.waitsForAnswer = true ↔ x.state = .sending ∧ x.txPending = true := by
  simp [Xe.waitsForAnswer]

theorem expects_iff (s : State) (n : Nat) :
    s.expects n = true ↔ (s.xe.state = .sending ∧ s.xe.txPending = true) ∧ n = s.calls.length := by
  simp [State.expects, waitsForAnswer_iff]

theorem capReached_iff (cfg : Config) (x : Xe) :
    capReached cfg x = true ↔ cfg.maxContinuations.val ≤ x.rounds.toNat := by
  simp [capReached]

/-- Below the cap the round counter does not wrap (rule R36). -/
theorem rounds_succ_toNat (cfg : Config) (x : Xe) (h : capReached cfg x = false) :
    (x.rounds + 1#8).toNat = x.rounds.toNat + 1 := by
  have hc : x.rounds.toNat < cfg.maxContinuations.val := by simpa [capReached] using h
  have := cfg.maxContinuations.isLt
  rw [BitVec.toNat_add]
  simp only [BitVec.toNat_ofNat]
  omega

/-! ### Acceptance -/

theorem acceptExchange_invalid (s : State) (session : Session) (cmd : ApduCommand) (f : CmdField)
    (h : firstInvalidField cmd = some f) :
    s.acceptExchange session cmd = s.enterError (.invalidParameter f) := by
  simp [State.acceptExchange, h]

theorem acceptExchange_valid (s : State) (session : Session) (cmd : ApduCommand) (h : firstInvalidField cmd = none) :
    s.acceptExchange session cmd = s.withXe ((s.xe.putFrame (serialize cmd)).accept session) := by
  simp [State.acceptExchange, h]

theorem execExchange_idle (session : Session) (cmd : ApduCommand) (s : State) (h : s.xe.state = .idle) :
    execExchange session cmd s = .next (s.acceptExchange session cmd) := by
  simp [execExchange, h]

theorem execExchange_busy (session : Session) (cmd : ApduCommand) (s : State) (h : s.xe.state ≠ .idle) :
    execExchange session cmd s = .next (s.enqueue session cmd) := by
  simp [execExchange, h]

theorem putCommandFrame_idle (s : State) (frame : List Byte) (h : s.xe.state = .idle) :
    s.putCommandFrame frame = s.withXe (s.xe.putFrame frame) := by
  simp [State.putCommandFrame, h]

theorem putCommandFrame_busy (s : State) (frame : List Byte) (h : s.xe.state ≠ .idle) : s.putCommandFrame frame = s := by
  simp [State.putCommandFrame, h]

/-! ### Responses and status words -/

/-- Rules R168 to R170, in `Sending`: the next state by the status word. -/
theorem sortStatus_sending (s : State) (sw1 sw2 : Byte) (h : s.xe.state = .sending) :
    s.sortStatus sw1 sw2 =
      if sw1 = 0x90#8 ∧ sw2 = 0x00#8 then .next (s.withXe (s.xe.moveTo .done))
      else if sw1 = 0x61#8 then .next (s.withXe (s.xe.moveTo .awaitingContinuation))
      else .next (s.enterError (.cardStatus sw1 sw2 (swCatalogAt s.cfg (code16 sw1 sw2)))) := by
  simp only [State.sortStatus, execSwSuccess, execSwMoreData, execSwOther, h, if_true]

/-- A status word always leads somewhere (conflict C2). -/
theorem sortStatus_isNext (s : State) (sw1 sw2 : Byte) : ∃ t, s.sortStatus sw1 sw2 = .next t := by
  unfold State.sortStatus
  split
  · exact ⟨_, rfl⟩
  · split <;> exact ⟨_, rfl⟩

theorem execResponse_waiting (pre : List Byte) (sw1 sw2 : Byte) (s : State) (h : s.xe.waitsForAnswer = true) :
    execResponse pre sw1 sw2 s = (s.withXe (s.xe.takeResponse pre sw1 sw2)).sortStatus sw1 sw2 := by
  simp [execResponse, h]

theorem execResponse_notWaiting (pre : List Byte) (sw1 sw2 : Byte) (s : State) (h : s.xe.waitsForAnswer = false) :
    execResponse pre sw1 sw2 s = .next s := by
  simp [execResponse, h]

/-- What a response of two or more bytes does to the block when XE waits for it: one of three moves (rules R167 to R170). -/
theorem execResponse_cases (pre : List Byte) (sw1 sw2 : Byte) (s t : State) (hw : s.xe.waitsForAnswer = true)
    (h : execResponse pre sw1 sw2 s = .next t) :
    (sw1 = 0x90#8 ∧ sw2 = 0x00#8 ∧ t = s.withXe ((s.xe.takeResponse pre sw1 sw2).moveTo .done)) ∨
    (sw1 = 0x61#8 ∧ t = s.withXe ((s.xe.takeResponse pre sw1 sw2).moveTo .awaitingContinuation)) ∨
    (isNamedStatus sw1 sw2 = false ∧
      t = s.withXe ((s.xe.takeResponse pre sw1 sw2).enterError
        (.cardStatus sw1 sw2 (swCatalogAt s.cfg (code16 sw1 sw2))))) := by
  have hs : s.xe.state = .sending := ((waitsForAnswer_iff _).1 hw).1
  rw [execResponse_waiting _ _ _ _ hw, sortStatus_sending _ _ _ (by simpa using hs)] at h
  split at h
  · rename_i hc
    injection h with h
    exact .inl ⟨hc.1, hc.2, h.symm⟩
  · split at h
    · rename_i hc
      injection h with h
      exact .inr (.inl ⟨hc, h.symm⟩)
    · rename_i h1 h2
      injection h with h
      refine .inr (.inr ⟨?_, h.symm⟩)
      simp_all [isNamedStatus]

theorem execResponseShort_waiting (b : Option Byte) (s : State) (h : s.xe.waitsForAnswer = true) :
    execResponseShort b s = .next (s.enterError .emptyResponse) := by
  simp [execResponseShort, h]

/-! ### Continuation -/

theorem execGetResponse_cap (l : Byte) (s : State) (h : s.xe.state = .awaitingContinuation)
    (hc : capReached s.cfg s.xe = true) : execGetResponse l s = .next (s.enterError .tooManyContinuations) := by
  simp [execGetResponse, h, hc]

theorem execGetResponse_below (l : Byte) (s : State) (h : s.xe.state = .awaitingContinuation)
    (hc : capReached s.cfg s.xe = false) : execGetResponse l s = .next (s.withXe (s.xe.continueWith l)) := by
  simp [execGetResponse, h, hc]

/-! ### Every meaning -/

/-- No instruction stops: every meaning answers a next state in every state. -/
theorem exec_isNext (i : Instr) (s : State) : ∃ t, exec i s = .next t := by
  cases i with
  | response pre sw1 sw2 =>
    simp only [exec, execResponse]
    split
    · exact sortStatus_isNext _ _ _
    · exact ⟨_, rfl⟩
  | _ => exact ⟨_, rfl⟩

end Sys2Proof.Machine
end

