-- ==== Sys2Proof/Laws/Operands.lean ====
section
/-! SUPPORT. What the operand checks and the serialization of a command amount to (rules R91, R161). -/

namespace Sys2Proof.Machine

open Sys2Proof

@[simp] theorem isByteValue_iff (n : Nat) : isByteValue n = true ↔ n ≤ 255 := by simp [isByteValue]

@[simp] theorem byteOf_toNat (b : Byte) : byteOf b.toNat = b := by simp [byteOf]

theorem isValidData_iff (d : Option (List Nat)) :
    isValidData d = true ↔ ∀ l, d = some l → l.length ≤ 255 ∧ ∀ n ∈ l, n ≤ 255 := by
  cases d <;> simp [isValidData]

theorem isValidLe_iff (le : Option Nat) : isValidLe le = true ↔ ∀ n, le = some n → n ≤ 255 := by
  cases le <;> simp [isValidLe]

/-- A command passes when every field does (rule R161). -/
theorem firstInvalidField_eq_none (c : ApduCommand) :
    firstInvalidField c = none ↔
      isByteValue c.cla = true ∧ isByteValue c.ins = true ∧ isByteValue c.p1 = true ∧ isByteValue c.p2 = true ∧
      isValidData c.data = true ∧ isValidLe c.le = true := by
  unfold firstInvalidField
  generalize isByteValue c.cla = a, isByteValue c.ins = b, isByteValue c.p1 = d, isByteValue c.p2 = e,
    isValidData c.data = f, isValidLe c.le = g
  revert a b d e f g
  decide

/-- Data that pass the check are at most 255 bytes (rules R99, R161). -/
theorem dataBytes_length_le (c : ApduCommand) (h : isValidData c.data = true) : (dataBytes c).length ≤ 255 := by
  unfold dataBytes
  cases hd : c.data with
  | none => simp
  | some d => simpa using ((isValidData_iff _).1 h d hd).1

theorem serialize_length (c : ApduCommand) :
    (serialize c).length
      = 4 + (if (dataBytes c).isEmpty then 0 else (dataBytes c).length + 1) + c.le.toList.length := by
  unfold serialize
  rw [apduFrame_length]
  cases c.le <;> simp

/-- The frame of a command that passes the check (rule R33). -/
theorem serialize_length_bounds (c : ApduCommand) (h : isValidData c.data = true) :
    4 ≤ (serialize c).length ∧ (serialize c).length ≤ 261 := by
  have hd := dataBytes_length_le c h
  rw [serialize_length]
  cases c.le <;> split <;> simp only [Option.toList] <;> simp <;> omega

end Sys2Proof.Machine
end

