-- ==== Sys2Proof/Laws/PerInstr.lean ====
section
/-! SUPPORT. The family `EncodedLength`: how many bytes the encoding of a well-formed instruction has, row by row (rules R81 to
R95). -/

namespace Sys2Proof.Laws.EncodedLength

open Sys2Proof

/-- The numbers of bytes a position admits: one character, the `K` historical bytes, the frames of rule R91 (4 to 261 bytes,
rule R33), the fixed frame of rule R92, the two bytes of a status word, any response. -/
def admits : Slot → Nat → Prop
  | .ts, n => n = 1
  | .t0, n => n = 1
  | .ta1, n => n = 1
  | .ta, n => n = 1
  | .tb, n => n = 1
  | .tc, n => n = 1
  | .td, n => n = 1
  | .hb k, n => n = k ∧ k ≤ 15
  | .tck, n => n = 1
  | .commandFrame, n => 4 ≤ n ∧ n ≤ 261
  | .getResponseFrame, n => n = 5
  | .statusWord, n => n = 2
  | .response, _ => True

/-- The encoding of a well-formed row that has bytes has a length its position admits. -/
def Statement (i : Instr) : Prop :=
  i.wellFormed = true → ∀ slot bs, encode i = .bytes slot bs → admits slot bs.length

theorem decodeAtr (raw : List Byte) : Statement (.decodeAtr raw) := by
  intro _ slot bs h; cases h
theorem exchange (session : Session) (cmd : ApduCommand) : Statement (.exchange session cmd) := by
  intro _ slot bs h; cases h
theorem describeSw (code : Code32) : Statement (.describeSw code) := by
  intro _ slot bs h; cases h
theorem describeTransport (code : Code32) : Statement (.describeTransport code) := by
  intro _ slot bs h; cases h
theorem atrTsDirect : Statement .atrTsDirect := by
  intro _ slot bs h; cases h; rfl
theorem atrTsInverse : Statement .atrTsInverse := by
  intro _ slot bs h; cases h; rfl
theorem atrTsIllegal (ts : Byte) : Statement (.atrTsIllegal ts) := by
  intro _ slot bs h; cases h; rfl
theorem atrT0 (y k : Nibble) : Statement (.atrT0 y k) := by
  intro _ slot bs h; cases h; rfl
theorem atrTa1 (fi di : Nibble) : Statement (.atrTa1 fi di) := by
  intro _ slot bs h; cases h; rfl
theorem atrTaI (v : Byte) : Statement (.atrTaI v) := by
  intro _ slot bs h; cases h; rfl
theorem atrTbI (v : Byte) : Statement (.atrTbI v) := by
  intro _ slot bs h; cases h; rfl
theorem atrTcI (v : Byte) : Statement (.atrTcI v) := by
  intro _ slot bs h; cases h; rfl
theorem atrTdI (y t : Nibble) : Statement (.atrTdI y t) := by
  intro _ slot bs h; cases h; rfl
theorem atrHb (vs : List Byte) : Statement (.atrHb vs) := by
  intro w slot bs h; cases h; exact ⟨rfl, by simpa [Instr.wellFormed] using w⟩
theorem atrTck (c : Byte) : Statement (.atrTck c) := by
  intro _ slot bs h; cases h; rfl
theorem apduCase1 (cla ins p1 p2 : Byte) : Statement (.apduCase1 cla ins p1 p2) := by
  intro _ slot bs h; cases h; simp [admits, apduFrame_length]
theorem apduCase2 (cla ins p1 p2 le : Byte) : Statement (.apduCase2 cla ins p1 p2 le) := by
  intro _ slot bs h; cases h; simp [admits, apduFrame_length]
theorem apduCase3 (cla ins p1 p2 : Byte) (data : List Byte) : Statement (.apduCase3 cla ins p1 p2 data) := by
  intro w slot bs h; cases h
  have : 1 ≤ data.length ∧ data.length ≤ 255 := by simpa [Instr.wellFormed, isDataLength] using w
  simp only [admits, apduFrame_length]
  split <;> simp only [Option.toList, List.length] <;> omega
theorem apduCase4 (cla ins p1 p2 : Byte) (data : List Byte) (le : Byte) :
    Statement (.apduCase4 cla ins p1 p2 data le) := by
  intro w slot bs h; cases h
  have : 1 ≤ data.length ∧ data.length ≤ 255 := by simpa [Instr.wellFormed, isDataLength] using w
  simp only [admits, apduFrame_length]
  split <;> simp only [Option.toList, List.length] <;> omega
theorem getResponse (l : Byte) : Statement (.getResponse l) := by
  intro _ slot bs h; cases h; rfl
theorem swSuccess : Statement .swSuccess := by
  intro _ slot bs h; cases h; rfl
theorem swMoreData (sw2 : Byte) : Statement (.swMoreData sw2) := by
  intro _ slot bs h; cases h; rfl
theorem swOther (sw1 sw2 : Byte) : Statement (.swOther sw1 sw2) := by
  intro _ slot bs h; cases h; rfl
theorem responseShort (b : Option Byte) : Statement (.responseShort b) := by
  intro _ slot bs h; cases h; trivial
theorem response (pre : List Byte) (sw1 sw2 : Byte) : Statement (.response pre sw1 sw2) := by
  intro _ slot bs h; cases h; trivial

end Sys2Proof.Laws.EncodedLength
end

