-- ==== Sys2Proof/Machine/Script.lean ====
section
/-! DEFINITION. What a transaction script does (rule R227): its requests are issued one after the other, and its `T<n>` lines are
the transport agent's answers. The scripts describe the outside of the block; the block itself never receives text (rule
R224). -/

namespace Sys2Proof.Machine

open Sys2Proof

/-- A `MAX_CONTINUATIONS=<n>` line sets that parameter for the script; without one it stays (rule R227). -/
def Script.configure (sc : Script) (cfg : Config) : Config :=
  { cfg with maxContinuations := sc.maxContinuations.getD cfg.maxContinuations }

/-- The answer a script gives to a call: `answers` are those of one EXCHANGE, before which `made` calls had been made, so that the
call numbered `made + n` is its `n`-th and is answered by the line `T<n>`. Any other call is not answered. -/
def scriptedAnswer (made : Nat) (answers : List Answer) (call : Nat) : Option Answer :=
  if made < call then answers[call - made - 1]? else none

/-- The transport agent of a script: it answers the outstanding call if the script has a line for it. -/
def State.withScriptedAnswer (made : Nat) (answers : List Answer) (s : State) : State :=
  if s.xe.waitsForAnswer then
    match scriptedAnswer made answers s.calls.length with
    | some a => s.withEvents (.answer s.calls.length a :: s.events)
    | none => s
  else s

/-- At most `n` steps of the block under the transport agent of a script; where nothing is enabled a step leaves the state as it
is. -/
def stepsUnder (made : Nat) (answers : List Answer) : Nat → State → Out
  | 0, s => .next s
  | n + 1, s =>
    match step (s.withScriptedAnswer made answers) with
    | .next s' => stepsUnder made answers n s'
    | .fault f => .fault f
    | .refused r => .refused r

/-- Enough steps for one transaction: the request, and an exchange of `MAX_CONTINUATIONS + 1` calls (rule R179). -/
def transactionSteps (cfg : Config) : Nat := 3 * cfg.maxContinuations.val + 5

/-- One transaction: the host issues the request, and the block steps until its result is delivered, or for ever in `Sending` where
the script has no answer (rule R180). -/
def Transaction.run (tr : Transaction) (s : State) : Out :=
  stepsUnder s.calls.length tr.answers (transactionSteps s.cfg) (s.withEvents (s.events ++ [.request tr.request]))

/-- The transactions of a script, in order. -/
def runTransactions : List Transaction → State → Out
  | [], s => .next s
  | tr :: trs, s =>
    match tr.run s with
    | .next s' => runTransactions trs s'
    | .fault f => .fault f
    | .refused r => .refused r

/-- A script, from the reset state of a block configured as it says (rules R227, R270, R273). -/
def Script.run (sc : Script) (cfg : Config) : Out :=
  runTransactions sc.transactions (State.resetWith (sc.configure cfg))

end Sys2Proof.Machine
end

