-- ==== Sys2Proof/Laws/Script.lean ====
section
/-! SUPPORT. What the script operations do, each said once (rule R227). -/

namespace Sys2Proof.Machine

open Sys2Proof

/-- The `n`-th call of an EXCHANGE is answered by its line `T<n>`. -/
theorem scriptedAnswer_nth (made : Nat) (answers : List Answer) (n : Nat) :
    scriptedAnswer made answers (made + (n + 1)) = answers[n]? := by
  simp [scriptedAnswer]

/-- A call of an earlier EXCHANGE is not answered by the lines of this one. -/
theorem scriptedAnswer_earlier (made : Nat) (answers : List Answer) (call : Nat) (h : call ≤ made) :
    scriptedAnswer made answers call = none := by
  simp [scriptedAnswer, Nat.not_lt.2 h]

/-- With no call outstanding the transport agent does nothing. -/
theorem withScriptedAnswer_notWaiting (made : Nat) (answers : List Answer) (s : State)
    (h : s.xe.waitsForAnswer = false) : s.withScriptedAnswer made answers = s := by
  simp [State.withScriptedAnswer, h]

@[simp] theorem withScriptedAnswer_xe (made : Nat) (answers : List Answer) (s : State) :
    (s.withScriptedAnswer made answers).xe = s.xe := by
  unfold State.withScriptedAnswer; split
  · split <;> rfl
  · rfl

@[simp] theorem withScriptedAnswer_cfg (made : Nat) (answers : List Answer) (s : State) :
    (s.withScriptedAnswer made answers).cfg = s.cfg := by
  unfold State.withScriptedAnswer; split
  · split <;> rfl
  · rfl

/-- A script in two parts: the second runs from where the first ends. -/
theorem runTransactions_append (as bs : List Transaction) (s t : State) (h : runTransactions as s = .next t) :
    runTransactions (as ++ bs) s = runTransactions bs t := by
  induction as generalizing s with
  | nil => injection h with h; rw [← h]; rfl
  | cons tr trs ih =>
    simp only [List.cons_append, runTransactions] at h ⊢
    split at h
    · exact ih _ h
    · cases h
    · cases h

/-- The parameter of a script is the one its top line names, and every other parameter stays. -/
@[simp] theorem configure_some (n : Fin 256) (trs : List Transaction) (cfg : Config) :
    ({ maxContinuations := some n, transactions := trs } : Script).configure cfg = { cfg with maxContinuations := n } := rfl

@[simp] theorem configure_none (trs : List Transaction) (cfg : Config) :
    ({ maxContinuations := none, transactions := trs } : Script).configure cfg = cfg := rfl

end Sys2Proof.Machine
end

