-- ==== Sys2Proof/Laws/Step.lean ====
section
/-! SUPPORT. What a step can do, said once (`step_cases`), and which action is taken on whose turn. -/

namespace Sys2Proof.Machine

open Sys2Proof

/-! ### Whose turn it is -/

theorem step_run (s : State) (i : Instr) (s' : State) (h : nextAction s = .run i s') : step s = exec i s' := by
  simp [step, h]

theorem step_goTo (s s' : State) (h : nextAction s = .goTo s') : step s = .next s' := by
  simp [step, h]

theorem nextAction_event (s : State) (e : Event) (es : List Event) (h : s.EventTurn e es) :
    nextAction s = eventAction (s.withEvents es) e := by
  simp [nextAction, h.1, h.2]

theorem nextAction_xe (s : State) (es : List Event) (h : s.XeTurn es) : nextAction s = xeAction (s.withEvents es) := by
  obtain ⟨ha, ⟨he, rfl⟩ | he⟩ := h
  · have : s.withEvents [] = s := by rw [← he]; rfl
    simp [nextAction, ha, he, this]
  · simp [nextAction, ha, he, eventAction]

theorem nextAction_atr (s : State) (h : s.atrd.active = true) : nextAction s = atrAction s := by
  simp [nextAction, h]

/-- A position is awaited only in a decode under way. -/
theorem active_of_place (w : AtrWork) (slot : Slot) (h : w.place = some slot) : w.active = true ∧ w.error = none := by
  unfold AtrWork.place at h
  split at h
  · assumption
  · cases h

/-! ### Choosing among waiting requests -/

/-- Taking out one element leaves the others in order. -/
theorem takeNth_split {α : Type} (l : List α) (n : Nat) (h : n < l.length) :
    ∃ pre a post, l = pre ++ a :: post ∧ takeNth n l = some (a, pre ++ post) := by
  induction l generalizing n with
  | nil => simp at h
  | cons b l ih =>
    cases n with
    | zero => exact ⟨[], b, l, rfl, rfl⟩
    | succ n =>
      obtain ⟨pre, a, post, hl, ht⟩ := ih n (by simpa using h)
      exact ⟨b :: pre, a, post, by simp [hl], by simp [takeNth, ht]⟩

/-- The choice takes one of the waiting requests; it writes nothing but the queue and the count of choices. -/
theorem pickWaiting_split (s : State) (h : s.waiting ≠ []) :
    ∃ pre r post n, s.waiting = pre ++ r :: post ∧
      s.pickWaiting = some (r, { s with waiting := pre ++ post, picks := n }) := by
  unfold State.pickWaiting
  split
  · contradiction
  · rename_i r hr
    exact ⟨[], r, [], s.picks, hr, rfl⟩
  · obtain ⟨pre, r, post, hl, ht⟩ := takeNth_split s.waiting (Config.pick s.picks % s.waiting.length)
      (Nat.mod_lt _ (List.length_pos_of_ne_nil h))
    exact ⟨pre, r, post, s.picks + 1, hl, by simp [ht]⟩

theorem pickWaiting_none (s : State) : s.pickWaiting = none ↔ s.waiting = [] := by
  constructor
  · intro h
    by_contra hw
    obtain ⟨_, _, _, _, _, hp⟩ := pickWaiting_split s hw
    simp [h] at hp
  · intro h
    simp [State.pickWaiting, h]

/-! ### What a step can do -/

/-- The moves of the block from a state whose port input has been taken: what each writes, and when it is enabled. -/
inductive Move (s : State) : State → Prop
  /-- XE waits, or an answer is discarded, or a row stands where it does not apply. -/
  | stay : Move s s
  /-- A character row of a decode under way. -/
  | character (w : AtrWork) (active : s.atrd.active = true) : Move s (s.withAtrd w)
  /-- The end of a decode under way. -/
  | decoded (active : s.atrd.active = true) : Move s s.finishAtr
  /-- DECODE_ATR in one step. -/
  | atrResult (raw : List Byte) : Move s (s.deliver (.atr (runAtr s.cfg raw)))
  /-- A DESCRIBE request. -/
  | description (d : Option Description) : Move s (s.deliver (.description d))
  /-- An EXCHANGE that waits. -/
  | enqueue (session : Session) (cmd : ApduCommand) (busy : s.xe.state ≠ .idle) : Move s (s.enqueue session cmd)
  /-- An EXCHANGE with an invalid field. -/
  | invalid (cmd : ApduCommand) (f : CmdField) (idle : s.xe.state = .idle) (bad : firstInvalidField cmd = some f) :
      Move s (s.enterError (.invalidParameter f))
  /-- An EXCHANGE accepted. -/
  | accept (session : Session) (cmd : ApduCommand) (idle : s.xe.state = .idle) (ok : firstInvalidField cmd = none) :
      Move s (s.withXe ((s.xe.putFrame (serialize cmd)).accept session))
  /-- The issue step. -/
  | issue (session : Session) (sending : s.xe.state = .sending) (free : s.xe.txPending = false)
      (latched : s.xe.session = some session) : Move s (s.issue session)
  /-- A transport failure. -/
  | failure (info : Info) (waits : s.xe.waitsForAnswer = true) : Move s (s.transportFailed info)
  /-- A response of fewer than two bytes. -/
  | short (waits : s.xe.waitsForAnswer = true) : Move s (s.enterError .emptyResponse)
  /-- A response with `90 00`. -/
  | success (pre : List Byte) (waits : s.xe.waitsForAnswer = true) :
      Move s (s.withXe ((s.xe.takeResponse pre 0x90#8 0x00#8).moveTo .done))
  /-- A response with `61xx`. -/
  | moreData (pre : List Byte) (l : Byte) (waits : s.xe.waitsForAnswer = true) :
      Move s (s.withXe ((s.xe.takeResponse pre 0x61#8 l).moveTo .awaitingContinuation))
  /-- A response with any other status word. -/
  | cardStatus (pre : List Byte) (sw1 sw2 : Byte) (waits : s.xe.waitsForAnswer = true)
      (other : isNamedStatus sw1 sw2 = false) :
      Move s (s.withXe ((s.xe.takeResponse pre sw1 sw2).enterError
        (.cardStatus sw1 sw2 (swCatalogAt s.cfg (code16 sw1 sw2)))))
  /-- The cap. -/
  | cap (awaiting : s.xe.state = .awaitingContinuation) (reached : capReached s.cfg s.xe = true) :
      Move s (s.enterError .tooManyContinuations)
  /-- A continuation round. -/
  | continue (l : Byte) (awaiting : s.xe.state = .awaitingContinuation) (below : capReached s.cfg s.xe = false)
      (status : s.xe.sw = some { sw1 := 0x61#8, sw2 := l }) : Move s (s.withXe (s.xe.continueWith l))
  /-- Delivery of success. -/
  | deliverOk (sw : StatusWord) (done : s.xe.state = .done) (status : s.xe.sw = some sw) : Move s (s.deliverOk sw)
  /-- Delivery of an error. -/
  | leaveError (e : XeError) (failed : s.xe.state = .failed) (recorded : s.xe.error = some e) : Move s (s.leaveError e)
  /-- Reset. -/
  | reset : Move s s.resetBlock

/-- The two states agree on everything but the list of events and, in `Idle`, the waiting requests. -/
structure SamePorts (s s' : State) : Prop where
  cfg : s'.cfg = s.cfg
  xe : s'.xe = s.xe
  calls : s'.calls = s.calls
  delivered : s'.delivered = s.delivered
  atrd : s'.atrd = s.atrd
  waiting : s.xe.state ≠ .idle → s'.waiting = s.waiting

theorem SamePorts.refl (s : State) : SamePorts s s := ⟨rfl, rfl, rfl, rfl, rfl, fun _ => rfl⟩

theorem exec_exchange_move (session : Session) (cmd : ApduCommand) (s t : State)
    (h : exec (.exchange session cmd) s = .next t) : Move s t := by
  simp only [exec] at h
  by_cases hi : s.xe.state = .idle
  · rw [execExchange_idle _ _ _ hi] at h
    injection h with h
    subst h
    cases hf : firstInvalidField cmd with
    | some f => rw [acceptExchange_invalid _ _ _ _ hf]; exact .invalid cmd f hi hf
    | none => rw [acceptExchange_valid _ _ _ hf]; exact .accept session cmd hi hf
  · rw [execExchange_busy _ _ _ hi] at h
    injection h with h
    exact h ▸ .enqueue session cmd hi

theorem exec_request_move (r : Request) (s t : State) (h : exec r.instr s = .next t) : Move s t := by
  cases r with
  | decodeAtr raw => injection h with h; exact h ▸ .atrResult raw
  | exchange session cmd => exact exec_exchange_move session cmd s t h
  | describeSw code => injection h with h; exact h ▸ .description _
  | describeTransport code => injection h with h; exact h ▸ .description _

theorem exec_response_move (r : List Byte) (s t : State) (hw : s.xe.waitsForAnswer = true)
    (h : exec (decodeResponse r) s = .next t) : Move s t := by
  unfold decodeResponse at h
  split at h
  · simp only [exec, execResponseShort_waiting _ _ hw] at h
    injection h with h; exact h ▸ .short hw
  · simp only [exec, execResponseShort_waiting _ _ hw] at h
    injection h with h; exact h ▸ .short hw
  · simp only [exec] at h
    obtain ⟨h1, h2, rfl⟩ | ⟨h1, rfl⟩ | ⟨ho, rfl⟩ := execResponse_cases _ _ _ _ _ hw h
    · rw [h1, h2]; exact .success _ hw
    · rw [h1]; exact .moreData _ _ hw
    · exact .cardStatus _ _ _ hw ho

theorem exec_getResponse_move (l : Byte) (s t : State) (ha : s.xe.state = .awaitingContinuation)
    (hs : s.xe.sw = some { sw1 := 0x61#8, sw2 := l }) (h : exec (.getResponse l) s = .next t) : Move s t := by
  simp only [exec] at h
  cases hc : capReached s.cfg s.xe with
  | true => rw [execGetResponse_cap _ _ ha hc] at h; injection h with h; exact h ▸ .cap ha hc
  | false => rw [execGetResponse_below _ _ ha hc] at h; injection h with h; exact h ▸ .continue l ha hc hs

/-- A decode awaits characters of an ATR only. -/
theorem place_isCharacter (w : AtrWork) (slot : Slot) (h : w.place = some slot) :
    slot ≠ .commandFrame ∧ slot ≠ .getResponseFrame ∧ slot ≠ .statusWord ∧ slot ≠ .response := by
  unfold AtrWork.place AtrWork.phasePlace AtrWork.groupPlace at h
  repeat' split at h
  all_goals first | cases h; simp | contradiction

/-- A row fetched by a decode is a character row: it writes the working variables and nothing else. -/
theorem exec_fetched (s : State) (i : Instr) (h : s.atrd.fetch = some i) :
    exec i s = .next (s.withAtrd (s.atrd.row s.cfg i)) := by
  unfold AtrWork.fetch at h
  cases hp : s.atrd.place with
  | none => simp [hp] at h
  | some slot =>
    simp only [hp, Option.bind_some] at h
    cases slot with
    | ts =>
      simp only [decode, decodeOne, decodeTs] at h
      split at h
      · split at h
        · cases h; rfl
        · split at h <;> cases h <;> rfl
      · cases h
    | t0 => simp only [decode, decodeOne] at h; split at h <;> cases h; rfl
    | ta1 => simp only [decode, decodeOne] at h; split at h <;> cases h; rfl
    | ta => simp only [decode, decodeOne] at h; split at h <;> cases h; rfl
    | tb => simp only [decode, decodeOne] at h; split at h <;> cases h; rfl
    | tc => simp only [decode, decodeOne] at h; split at h <;> cases h; rfl
    | td => simp only [decode, decodeOne] at h; split at h <;> cases h; rfl
    | hb k => simp only [decode] at h; split at h <;> cases h; rfl
    | tck => simp only [decode, decodeOne] at h; split at h <;> cases h; rfl
    | commandFrame => exact absurd rfl (place_isCharacter _ _ hp).1
    | getResponseFrame => exact absurd rfl (place_isCharacter _ _ hp).2.1
    | statusWord => exact absurd rfl (place_isCharacter _ _ hp).2.2.1
    | response => exact absurd rfl (place_isCharacter _ _ hp).2.2.2

/-- XE's own step is a move from a state that differs in the queue of waiting requests at most. -/
theorem xeAction_move (s t : State)
    (h : (match xeAction s with | .run i s' => exec i s' | .goTo s' => .next s' | .stop f => .fault f) = .next t) :
    ∃ s', SamePorts s s' ∧ Move s' t := by
  cases hs : s.xe.state with
  | idle =>
    cases hp : s.pickWaiting with
    | none =>
      simp only [xeAction, hs, hp] at h
      injection h with h
      exact ⟨s, .refl s, h ▸ .stay⟩
    | some p =>
      have hw : s.waiting ≠ [] := fun hw => by simp [(pickWaiting_none s).2 hw] at hp
      obtain ⟨pre, r, post, n, _, hq⟩ := pickWaiting_split s hw
      simp only [xeAction, hs, hq] at h
      exact ⟨{ s with waiting := pre ++ post, picks := n }, ⟨rfl, rfl, rfl, rfl, rfl, fun h => absurd hs h⟩, exec_exchange_move _ _ _ _ h⟩
  | sending =>
    refine ⟨s, .refl s, ?_⟩
    cases ht : s.xe.txPending with
    | true => simp only [xeAction, hs, ht, if_true] at h; injection h with h; exact h ▸ .stay
    | false =>
      cases hl : s.xe.session with
      | none => simp [xeAction, hs, ht, hl] at h
      | some session =>
        simp only [xeAction, hs, ht, hl, Bool.false_eq_true, if_false] at h
        injection h with h
        exact h ▸ .issue session hs ht hl
  | awaitingContinuation =>
    refine ⟨s, .refl s, ?_⟩
    cases hw : s.xe.sw with
    | none => simp [xeAction, hs, hw] at h
    | some sw =>
      obtain ⟨a, b⟩ := sw
      by_cases ha : a = 0x61#8
      · subst ha
        simp only [xeAction, hs, hw, if_true] at h
        exact exec_getResponse_move b s t hs hw h
      · simp [xeAction, hs, hw, ha] at h
  | done =>
    refine ⟨s, .refl s, ?_⟩
    cases hw : s.xe.sw with
    | none => simp [xeAction, hs, hw] at h
    | some sw => simp only [xeAction, hs, hw] at h; injection h with h; exact h ▸ .deliverOk sw hs hw
  | failed =>
    refine ⟨s, .refl s, ?_⟩
    cases he : s.xe.error with
    | none => simp [xeAction, hs, he] at h
    | some e => simp only [xeAction, hs, he] at h; injection h with h; exact h ▸ .leaveError e hs he

/-- What a step can do: its port input is taken, and then one of the moves. -/
theorem step_cases (s t : State) (h : step s = .next t) : ∃ s', SamePorts s s' ∧ Move s' t := by
  unfold step at h
  cases ha : s.atrd.active with
  | true =>
    rw [nextAction_atr s ha] at h
    unfold atrAction at h
    cases hf : s.atrd.fetch with
    | some i =>
      simp only [hf, exec_fetched s i hf] at h
      injection h with h
      exact ⟨s, .refl s, h ▸ .character _ ha⟩
    | none =>
      cases hp : s.atrd.place with
      | some slot =>
        simp only [hf, hp] at h
        injection h with h
        exact ⟨s, .refl s, h ▸ .character _ ha⟩
      | none =>
        simp only [hf, hp] at h
        injection h with h
        exact ⟨s, .refl s, h ▸ .decoded ha⟩
  | false =>
    cases he : s.events with
    | nil =>
      rw [nextAction_xe s [] ⟨ha, .inl ⟨he, rfl⟩⟩] at h
      obtain ⟨s', hp, hm⟩ := xeAction_move _ _ h
      exact ⟨s', ⟨hp.cfg, hp.xe, hp.calls, hp.delivered, hp.atrd, hp.waiting⟩, hm⟩
    | cons e es =>
      rw [nextAction_event s e es ⟨ha, he⟩] at h
      have hs : SamePorts s (s.withEvents es) := ⟨rfl, rfl, rfl, rfl, rfl, fun _ => rfl⟩
      cases e with
      | request r => exact ⟨_, hs, exec_request_move r _ _ h⟩
      | answer n a =>
        refine ⟨_, hs, ?_⟩
        cases hx : (s.withEvents es).expects n with
        | false =>
          cases a <;> (simp only [eventAction, answerAction, hx, Bool.false_eq_true, if_false] at h
                       injection h with h
                       exact h ▸ .stay)
        | true =>
          have hw := (waitsForAnswer_iff _).2 ((expects_iff _ _).1 hx).1
          cases a with
          | bytes r =>
            simp only [eventAction, answerAction, hx, if_true] at h
            exact exec_response_move r _ _ hw h
          | failure info =>
            simp only [eventAction, answerAction, hx, if_true] at h
            injection h with h
            exact h ▸ .failure info hw
      | reset =>
        simp only [eventAction] at h
        injection h with h
        exact ⟨_, hs, h ▸ .reset⟩
      | xe =>
        obtain ⟨s', hp, hm⟩ := xeAction_move _ _ h
        exact ⟨s', ⟨hp.cfg, hp.xe, hp.calls, hp.delivered, hp.atrd, hp.waiting⟩, hm⟩

end Sys2Proof.Machine
end

