-- ==== Sys2Proof/Laws/Text.lean ====
section
/-! SUPPORT. The small facts of the byte notation (rules R220 to R223). -/

namespace Sys2Proof.Machine

open Sys2Proof

/-- A hexadecimal digit has a value below 16 (rule R222). -/
theorem hexDigit_lt (c : Char) (v : Nat) (h : hexDigit c = some v) : v < 16 := by
  unfold hexDigit at h
  split at h
  · rename_i hc
    obtain ⟨h0, h9⟩ := hc
    have h9' : c.toNat ≤ 57 := h9
    injection h with h
    have : ('0' : Char).toNat = 48 := rfl
    omega
  · split at h
    · rename_i hc
      obtain ⟨h0, h9⟩ := hc
      have h9' : c.toNat ≤ 102 := h9
      injection h with h
      have : ('a' : Char).toNat = 97 := rfl
      omega
    · split at h
      · rename_i hc
        obtain ⟨h0, h9⟩ := hc
        have h9' : c.toNat ≤ 70 := h9
        injection h with h
        have : ('A' : Char).toNat = 65 := rfl
        omega
      · cases h

@[simp] theorem hexDigit_hexChar (n : Nibble) : hexDigit (hexChar n) = some n.toNat := by
  revert n; decide

theorem hexChar_ne_space (n : Nibble) : hexChar n ≠ ' ' := by
  revert n; decide

theorem parseToken_renderByte (b : Byte) : parseToken (renderByte b) = .ok b := by
  simp only [renderByte, parseToken, hexDigit_hexChar]
  congr 1
  revert b; decide

/-- A character that is no space goes on with the token (rule R221). -/
theorem tokensFrom_char (cur cs : List Char) (c : Char) (h : c ≠ ' ') : tokensFrom cur (c :: cs) = tokensFrom (c :: cur) cs := by
  simp [tokensFrom, h]

/-- Spaces before a token are ignored (rule R221). -/
@[simp] theorem tokensFrom_space_nil (cs : List Char) : tokensFrom [] (' ' :: cs) = tokensFrom [] cs := by
  simp [tokensFrom]

end Sys2Proof.Machine
end

