-- ==== Sys2Proof/Tests/Slice0.lean ====
section
/-! SUPPORT. The model's own tests: ill-formed terms the check refuses, words written out from the spec's encodings, single
steps with the results spec/95_test_vectors.md gives, and a concrete witness for the hypotheses of each statement. -/

namespace Sys2Proof.Tests

open Sys2Proof Sys2Proof.Machine

/-! ### Helpers -/

/-- Right after reset, with the spec's default parameters. -/
def start : State := State.resetWith Config.default

/-- The session of the vectors. -/
def session : Session := { handle := { name := "h" }, protocolId := { name := "p" } }

/-- `00 B0 00 00`, le 00, the command of most vectors of section 2.3. -/
def readBinary : ApduCommand := { cla := 0, ins := 0xB0, p1 := 0, p2 := 0, data := none, le := some 0 }

/-- The longest command (V-F7). -/
def longest : ApduCommand :=
  { cla := 0, ins := 0xD6, p1 := 0, p2 := 0, data := some (List.replicate 255 0xEE), le := some 0 }

/-- XE in an exchange in its first round, with a call outstanding or not. -/
def sending (pending : Bool) : Xe :=
  { state := .sending, txPending := pending, frame := [0x00#8, 0xB0#8, 0x00#8, 0x00#8, 0x00#8], body := [], sw := none,
    rounds := 0#8, session := some session, error := none }

/-- XE after a `61 05` in round `n`. -/
def awaiting (n : BitVec 8) : Xe :=
  { sending false with state := .awaitingContinuation, sw := some { sw1 := 0x61#8, sw2 := 0x05#8 }, rounds := n }

/-- XE after `AA 90 00`. -/
def finished : Xe :=
  { sending false with state := .done, body := [0xAA#8], sw := some { sw1 := 0x90#8, sw2 := 0x00#8 } }

/-- XE after an empty response. -/
def failed : Xe := { sending false with state := .failed, error := some .emptyResponse }

/-- The call of the first round. -/
def firstCall : Call := { session := session, frame := [0x00#8, 0xB0#8, 0x00#8, 0x00#8, 0x00#8] }

/-- XE waiting for the answer to its first call. -/
def waitingForAnswer : State := { start with xe := sending true, calls := [firstCall] }

/-- An ATR with every kind of character: TS T0 TA1 TB1 TC1 TD1 TA2 HB TCK. -/
def fullAtr : List Byte := [0x3B#8, 0xF1#8, 0x11#8, 0x22#8, 0x33#8, 0x11#8, 0x44#8, 0xAA#8, 0xCC#8]

/-- A decode of `fullAtr` after `n` characters. -/
def decoding (n : Nat) : State := start.withAtrd (AtrWork.run Config.default n (AtrWork.start fullAtr))

/-- The same decode of an input that ends one byte too early for the next character. -/
def decodingShort (n : Nat) : State :=
  let w := (decoding n).atrd
  start.withAtrd { w with raw := w.raw.take (w.cur + w.k + w.tckNeed) }

/-- The decode result of a meaning. -/
def xeAfter (o : Out) : Option Xe :=
  match o with
  | .next t => some t.xe
  | .fault _ => none
  | .refused _ => none

/-- The results a meaning has delivered. -/
def deliveredBy (o : Out) : List HostResult :=
  match o with
  | .next t => t.delivered
  | .fault _ => []
  | .refused _ => []

/-- The working variables after a meaning. -/
def atrdAfter (o : Out) : Option AtrWork :=
  match o with
  | .next t => some t.atrd
  | .fault _ => none
  | .refused _ => none

/-! ### The well-formedness check refuses -/

theorem test_wf_tsIllegal_direct : (Instr.atrTsIllegal 0x3B#8).wellFormed = false := by decide
theorem test_wf_tsIllegal_inverse : (Instr.atrTsIllegal 0x3F#8).wellFormed = false := by decide
theorem test_wf_hb_sixteen : (Instr.atrHb (List.replicate 16 0#8)).wellFormed = false := by decide
theorem test_wf_case3_empty : (Instr.apduCase3 0#8 0#8 0#8 0#8 []).wellFormed = false := by decide
theorem test_wf_case3_256 : (Instr.apduCase3 0#8 0#8 0#8 0#8 (List.replicate 256 0#8)).wellFormed = false := by
  simp [-List.reduceReplicate, Instr.wellFormed, isDataLength]
theorem test_wf_case4_empty : (Instr.apduCase4 0#8 0#8 0#8 0#8 [] 0#8).wellFormed = false := by decide
theorem test_wf_case4_256 : (Instr.apduCase4 0#8 0#8 0#8 0#8 (List.replicate 256 0#8) 0#8).wellFormed = false := by
  simp [-List.reduceReplicate, Instr.wellFormed, isDataLength]
theorem test_wf_other_is_success : (Instr.swOther 0x90#8 0x00#8).wellFormed = false := by decide
theorem test_wf_other_is_moreData : (Instr.swOther 0x61#8 0x05#8).wellFormed = false := by decide
theorem test_wf_other_9001 : (Instr.swOther 0x90#8 0x01#8).wellFormed = true := by decide

/-! ### Words written out from the encodings (spec/30_encoding.md) -/

theorem test_decode_request : decode (.request (.describeSw 0x6A82#32)) = .ok (.describeSw 0x6A82#32) := by decide
theorem test_decode_ts_direct : decode (.bytes .ts [0b00111011#8]) = .ok .atrTsDirect := by decide
theorem test_decode_ts_inverse : decode (.bytes .ts [0b00111111#8]) = .ok .atrTsInverse := by decide
theorem test_decode_ts_illegal : decode (.bytes .ts [0b00111100#8]) = .ok (.atrTsIllegal 0x3C#8) := by decide
theorem test_decode_t0 : decode (.bytes .t0 [0b01100101#8]) = .ok (.atrT0 0b0110#4 0b0101#4) := by decide
theorem test_decode_ta1 : decode (.bytes .ta1 [0b10010110#8]) = .ok (.atrTa1 9#4 6#4) := by decide
theorem test_decode_ta2 : decode (.bytes .ta [0b11000111#8]) = .ok (.atrTaI 0xC7#8) := by decide
theorem test_decode_tb : decode (.bytes .tb [0b00100010#8]) = .ok (.atrTbI 0x22#8) := by decide
theorem test_decode_tc : decode (.bytes .tc [0b00110011#8]) = .ok (.atrTcI 0x33#8) := by decide
theorem test_decode_td : decode (.bytes .td [0b10001111#8]) = .ok (.atrTdI 0b1000#4 15#4) := by decide
theorem test_decode_hb : decode (.bytes (.hb 2) [0x41#8, 0x42#8]) = .ok (.atrHb [0x41#8, 0x42#8]) := by decide
theorem test_decode_tck : decode (.bytes .tck [0b10000001#8]) = .ok (.atrTck 0x81#8) := by decide
/-- V-F1. -/
theorem test_decode_case1 : decode (.bytes .commandFrame [0x80#8, 0xCA#8, 0x9F#8, 0x7F#8])
    = .ok (.apduCase1 0x80#8 0xCA#8 0x9F#8 0x7F#8) := by decide
/-- V-F3. -/
theorem test_decode_case2 : decode (.bytes .commandFrame [0x00#8, 0xB0#8, 0x00#8, 0x00#8, 0x00#8])
    = .ok (.apduCase2 0x00#8 0xB0#8 0x00#8 0x00#8 0x00#8) := by decide
/-- V-F5. -/
theorem test_decode_case3 : decode (.bytes .commandFrame [0x00#8, 0xA4#8, 0x04#8, 0x00#8, 0x02#8, 0x3F#8, 0x00#8])
    = .ok (.apduCase3 0x00#8 0xA4#8 0x04#8 0x00#8 [0x3F#8, 0x00#8]) := by decide
/-- V-F6. -/
theorem test_decode_case4 :
    decode (.bytes .commandFrame [0x00#8, 0xA4#8, 0x04#8, 0x00#8, 0x02#8, 0xA0#8, 0x03#8, 0x00#8])
      = .ok (.apduCase4 0x00#8 0xA4#8 0x04#8 0x00#8 [0xA0#8, 0x03#8] 0x00#8) := by decide
/-- S6, S11. -/
theorem test_decode_getResponse :
    decode (.bytes .getResponseFrame [0b00000000#8, 0b11000000#8, 0b00000000#8, 0b00000000#8, 0b00000101#8])
      = .ok (.getResponse 0x05#8) := by decide
theorem test_decode_success : decode (.bytes .statusWord [0b10010000#8, 0b00000000#8]) = .ok .swSuccess := by decide
theorem test_decode_moreData : decode (.bytes .statusWord [0b01100001#8, 0b00000000#8]) = .ok (.swMoreData 0x00#8) := by
  decide
theorem test_decode_other : decode (.bytes .statusWord [0b01101100#8, 0b00010000#8]) = .ok (.swOther 0x6C#8 0x10#8) := by
  decide
theorem test_decode_short : decode (.bytes .response [0x90#8]) = .ok (.responseShort (some 0x90#8)) := by decide
theorem test_decode_response : decode (.bytes .response [0x11#8, 0x22#8, 0x61#8, 0x02#8])
    = .ok (.response [0x11#8, 0x22#8] 0x61#8 0x02#8) := by decide
theorem test_decode_refuses_lc_zero : decode (.bytes .commandFrame [0#8, 0#8, 0#8, 0#8, 0#8, 0#8])
    = .error .frameLengthMismatch := by decide
theorem test_decode_refuses_short_frame : decode (.bytes .commandFrame [0#8, 0#8, 0#8]) = .error .frameTooShort := by decide
theorem test_decode_refuses_other_ins :
    decode (.bytes .getResponseFrame [0#8, 0xC1#8, 0#8, 0#8, 0#8]) = .error .notGetResponse := by decide

/-! ### Single steps, with the results of spec/95_test_vectors.md -/

/-- V-A2. -/
theorem test_decodeAtr_short : runAtr Config.default [0x3B#8] = .error .tooShort := by decide
/-- The input of V-A22. -/
def threeGroups : List Byte :=
  [0x3B#8, 0x9F#8, 0x96#8, 0x80#8, 0x1F#8, 0xC7#8, 0x80#8, 0x31#8, 0xE0#8, 0x73#8, 0xFE#8, 0x21#8, 0x1B#8, 0x63#8, 0x3A#8,
   0x20#8, 0x4E#8, 0x83#8, 0x00#8, 0x90#8, 0x00#8, 0x31#8]

/-- V-A22: its groups and its check byte. -/
theorem test_decodeAtr_three_groups :
    (runAtr Config.default threeGroups).toOption.map
      (fun r => (r.interfaceGroups.map fun g => (g.ta, g.td), r.checkByte))
      = some ([(some 0x96#8, some 0x80#8), (none, some 0x1F#8), (some 0xC7#8, none)], some 0x31#8) := by decide
/-- V-A22: its field order, spelled. -/
theorem test_decodeAtr_field_order :
    (runAtr Config.default threeGroups).toOption.map (fun r => r.fieldOrder.map FieldId.spell)
      = some ["TS", "T0", "TA1", "TD1", "TD2", "TA3", "hb", "TCK"] := by decide
/-- V-A36: `RFU` is no error and no number. -/
theorem test_ta1_rfu :
    ((runAtr Config.default [0x3B#8, 0x12#8, 0xFF#8, 0x41#8, 0x42#8]).toOption.map fun r => (r.fi, r.di))
      = some (some .rfu, some .rfu) := by decide
/-- V-A34: the look-ahead counts the check byte. -/
theorem test_td_truncated : runAtr Config.default [0x3B#8, 0x80#8, 0x8F#8, 0x00#8] = .error .truncated := by decide
/-- V-A13. -/
theorem test_tck_missing : runAtr Config.default [0x3B#8, 0x80#8, 0x01#8] = .error .trailingOrMissing := by decide
/-- V-A6. -/
theorem test_hb_missing : runAtr Config.default [0x3B#8, 0x05#8, 0x01#8] = .error .trailingOrMissing := by decide
/-- S5. -/
theorem test_ts_illegal : runAtr Config.default [0x41#8, 0x00#8] = .error .badTs := by decide
/-- Rule R123's example: `0x65` is `K = 5` and the mask `0b0110`. -/
theorem test_t0_fields :
    (atrdAfter (exec (.atrT0 0b0110#4 5#4) (decoding 1))).map (fun w => (w.k, w.mask, w.place))
      = some (5, 0b0110#4, some .tb) := by decide
/-- Rules R126 and R127: the bits are served in order. -/
theorem test_tb_then_tc : (atrdAfter (exec (.atrTbI 0x22#8) (decoding 3))).map AtrWork.place = some (some .tc) := by decide
theorem test_tc_then_td : (atrdAfter (exec (.atrTcI 0x33#8) (decoding 4))).map AtrWork.place = some (some .td) := by decide
/-- Rule R128: `TD1 = 11` asks for TA2 and, as T is 1, for TCK. -/
theorem test_td_next_group : (atrdAfter (exec (.atrTdI 1#4 1#4) (decoding 5))).map (fun w => (w.place, w.anyNonT0, w.idx))
    = some (some .ta, true, 2) := by decide
theorem test_ta2_not_interpreted :
    (atrdAfter (exec (.atrTaI 0x44#8) (decoding 6))).map (fun w => (w.fi.isSome, w.place)) = some (true, some (.hb 1)) := by
  decide

/-- V-X6a, delivery. -/
theorem test_failed_delivers :
    deliveredBy (step { start with xe := failed }) = [.exchange (.error .emptyResponse)] := by decide
/-- V-X11d: the first field in order. -/
theorem test_first_invalid_field :
    firstInvalidField { readBinary with ins := 256, data := some (List.replicate 256 0) } = some .ins := by decide
/-- V-F6, V-F2. -/
theorem test_serialize_case4 :
    serialize { cla := 0, ins := 0xA4, p1 := 4, p2 := 0, data := some [0xA0, 0, 0, 0, 3], le := some 0 }
      = [0x00#8, 0xA4#8, 0x04#8, 0x00#8, 0x05#8, 0xA0#8, 0x00#8, 0x00#8, 0x00#8, 0x03#8, 0x00#8] := by decide
theorem test_serialize_empty_data :
    serialize { cla := 0, ins := 0xCA, p1 := 0, p2 := 0, data := some [], le := none }
      = [0x00#8, 0xCA#8, 0x00#8, 0x00#8] := by decide
/-- V-F7. -/
theorem test_serialize_longest : (serialize longest).length = 261 := by
  simp [-List.reduceReplicate, serialize_length, dataBytes, longest]
/-- Rule R163, and no call. -/
theorem test_exchange_accepted :
    (xeAfter (exec (.exchange session readBinary) start)) = some (sending false) := by decide
/-- V-X8, first answer. -/
theorem test_response_moreData :
    (xeAfter (exec (.response [0x11#8, 0x22#8] 0x61#8 0x02#8) waitingForAnswer)).map (fun x => (x.state, x.body, x.txPending))
      = some (.awaitingContinuation, [0x11#8, 0x22#8], false) := by decide
/-- V-X5: `90 01` is no success. -/
theorem test_response_9001 :
    (xeAfter (exec (.response [] 0x90#8 0x01#8) waitingForAnswer)).map (fun x => (x.state, x.error))
      = some (.failed, some (.cardStatus 0x90#8 0x01#8 none)) := by decide
/-- V-X19: the description of the catalog. -/
theorem test_response_described :
    (xeAfter (exec (.response [] 0x6A#8 0x82#8)
        { waitingForAnswer with cfg := { Config.default with swCatalog := [(0x6A82#16, { text := "d6A82" })] } })).map Xe.error
      = some (some (.cardStatus 0x6A#8 0x82#8 (some { text := "d6A82" }))) := by decide
/-- V-X6b. -/
theorem test_responseShort :
    (xeAfter (exec (.responseShort (some 0x90#8)) waitingForAnswer)).map Xe.error = some (some .emptyResponse) := by decide
/-- V-X1, the second frame; V-X10, Le `00`. -/
theorem test_getResponse_frame :
    (xeAfter (exec (.getResponse 0x05#8) { start with xe := awaiting 0#8 })).map (fun x => (x.frame, x.rounds, x.state))
      = some ([0x00#8, 0xC0#8, 0x00#8, 0x00#8, 0x05#8], 1#8, .sending) := by decide
/-- V-X3a: with the cap 32, the `61xx` after 32 rounds fails. -/
theorem test_getResponse_cap :
    (xeAfter (exec (.getResponse 0x05#8) { start with xe := awaiting 32#8 })).map Xe.error
      = some (some .tooManyContinuations) := by decide
/-- V-D3, V-D4. -/
theorem test_describeSw_above_ffff :
    deliveredBy (exec (.describeSw 0x16A82#32)
      { start with cfg := { Config.default with swCatalog := [(0x6A82#16, { text := "e" })] } }) = [.description none] := by
  decide
theorem test_describeTransport :
    deliveredBy (exec (.describeTransport 0x6A82#32)
      { start with cfg := { Config.default with swCatalog := [(0x6A82#16, { text := "e" })],
                                                transportCatalog := [(0x6A82#32, { text := "t" })] } })
      = [.description (some { text := "t" })] := by decide
/-- V-C1 and V-C7: the catalog does not override Success, and an absent `90xx` is Unknown. -/
theorem test_classify :
    classify { Config.default with swCatalog := [(0x9000#16, { text := "s" })] } 0x90#8 0x00#8 = .success ∧
    classify Config.default 0x90#8 0x02#8 = .unknown := by decide
/-- P5, event 4: the answer of an abandoned call is discarded. -/
theorem test_abandoned_answer :
    xeAfter (step { start with events := [.answer 1 (.bytes [0xAA#8, 0x90#8, 0x00#8])], calls := [firstCall] })
      = some Xe.reset := by decide
/-- V-T2, V-T12. -/
theorem test_byte_notation : parseBytes "3f 0a" = .ok [0x3F#8, 0x0A#8] := by decide
theorem test_byte_notation_first_bad : parseBytes "3B 6 0G" = .error { token := "6" } := by decide
/-- V-T10: a tab is part of its token. -/
theorem test_byte_notation_tab : parseBytes "3B\t00" = .error { token := "3B\t00" } := by decide

/-! ### Transaction scripts (rule R227) -/

/-- V-X6c as a script: the parameter at the top, and the answers with their EXCHANGE. -/
theorem test_script_assembles :
    assemble [.maxContinuations 2, .request (.exchange session readBinary), .transport 1 (.bytes [0x61#8, 0x02#8]),
        .transport 2 (.bytes [0x61#8]), .request (.describeSw 0x9000#32)]
      = .ok { maxContinuations := some 2, transactions :=
          [{ request := .exchange session readBinary, answers := [.bytes [0x61#8, 0x02#8], .bytes [0x61#8]] },
           { request := .describeSw 0x9000#32, answers := [] }] } := by decide
theorem test_script_answer_line : parseLine "  T2: FAIL(e1)" = .ok (.transport 2 (.failure { name := "e1" })) := by decide
theorem test_script_answer_without_exchange : assemble [.transport 1 (.bytes [])] = .error (.answerWithoutExchange 1) := by
  decide
theorem test_script_answer_zero :
    assemble [.request (.exchange session readBinary), .transport 0 (.bytes [])] = .error (.answerOutOfOrder 0) := by decide
theorem test_script_cap_below : assemble [.request (.describeSw 1#32), .maxContinuations 2] = .error (.capNotAtTop 2) := by
  decide
theorem test_script_cap_range : assemble [.maxContinuations 256] = .error (.capOutOfRange 256) := by decide
/-- The transport agent answers the outstanding first call with `T1`. -/
theorem test_script_first_answer :
    (waitingForAnswer.withScriptedAnswer 0 [.bytes [0x6A#8, 0x82#8]]).events = [.answer 1 (.bytes [0x6A#8, 0x82#8])] := by
  decide

/-! ### Table words -/

theorem test_table_word_ts : decodeTableWord 8 0x3F = some .atrTsInverse := by decide
theorem test_table_word_sw : decodeTableWord 16 0x6105 = some (.swMoreData 0x05#8) := by decide
theorem test_fetch_word_ts :
    fetch (State.reset.withFetchWord 8 0x3B) = some (.atrTsDirect, State.reset.withFetchWord 8 0x3B) := by rfl
theorem test_fetch_word_sw :
    ((fetch (State.reset.withFetchWord 16 0x9000)).map fun p => p.1) = some (.response [] 0x90#8 0x00#8) := by rfl

/-! ### Witnesses: a concrete state and operands that meet the hypotheses of each statement -/

/-- XE's turn, with nothing more to happen and with its turn listed. -/
theorem xeTurn_alone (x : Xe) : ({ start with xe := x } : State).XeTurn [] := ⟨rfl, .inl ⟨rfl, rfl⟩⟩
theorem xeTurn_listed (x : Xe) : ({ start with xe := x, events := [.xe, .reset] } : State).XeTurn [.reset] := ⟨rfl, .inr rfl⟩

/-- The states of the tests meet the invariant, one for each value of `XE.state`. -/
theorem test_inv_sending (b : Bool) : ({ start with xe := sending b, calls := [firstCall] } : State).Inv :=
  ⟨rfl, ⟨rfl, rfl, ⟨Nat.le_of_ble_eq_true rfl, Nat.le_of_ble_eq_true rfl⟩, Nat.le_of_ble_eq_true rfl, fun _ => ⟨rfl, rfl⟩, fun h => absurd rfl h⟩, fun _ => ⟨session, rfl, rfl⟩⟩
theorem test_inv_awaiting : ({ start with xe := awaiting 32#8 } : State).Inv :=
  ⟨rfl, ⟨rfl, rfl, rfl, ⟨Nat.le_of_ble_eq_true rfl, Nat.le_of_ble_eq_true rfl⟩, Nat.le_of_ble_eq_true rfl, 0x05#8, rfl⟩, fun h => by cases h⟩
theorem test_inv_finished : ({ start with xe := finished } : State).Inv :=
  ⟨rfl, ⟨rfl, rfl, rfl, ⟨Nat.le_of_ble_eq_true rfl, Nat.le_of_ble_eq_true rfl⟩, Nat.le_of_ble_eq_true rfl, rfl⟩, fun h => by cases h⟩
theorem test_inv_failed : ({ start with xe := failed } : State).Inv :=
  ⟨rfl, ⟨rfl, Nat.le_of_ble_eq_true rfl, .emptyResponse, rfl, rfl⟩, fun h => by cases h⟩

theorem test_witness_DecodeEncodeRoundTrip :
    (Instr.atrHb (List.replicate 15 0#8)).wellFormed = true ∧ (Instr.apduCase3 0#8 0#8 0#8 0#8 [0#8]).wellFormed = true ∧
    (Instr.apduCase4 0#8 0#8 0#8 0#8 (List.replicate 255 0#8) 0#8).wellFormed = true ∧
    (Instr.swOther 0x90#8 0x01#8).wellFormed = true ∧ (Instr.atrTsIllegal 0x3C#8).wellFormed = true := by
  refine ⟨by decide, by decide, ?_, by decide, by decide⟩
  simp [-List.reduceReplicate, Instr.wellFormed, isDataLength]

/-- `DecodeIsExact`, and a well-formed instruction with that encoding. -/
theorem test_witness_DecodeIsExact :
    encode (.apduCase4 0#8 0#8 0#8 0#8 [0xEE#8] 0#8) = .bytes .commandFrame [0#8, 0#8, 0#8, 0#8, 1#8, 0xEE#8, 0#8] ∧
    (Instr.apduCase4 0#8 0#8 0#8 0#8 [0xEE#8] 0#8).wellFormed = true ∧
    decode (.bytes .commandFrame [0#8, 0#8, 0#8, 0#8, 1#8, 0xEE#8, 0#8]) = .ok (.apduCase4 0#8 0#8 0#8 0#8 [0xEE#8] 0#8) := by
  decide

theorem test_witness_SerializationIsACaseFrame :
    firstInvalidField longest = none ∧ firstInvalidField { readBinary with data := some [], le := none } = none := by
  refine ⟨?_, by decide⟩
  rw [firstInvalidField_eq_none]
  refine ⟨rfl, rfl, rfl, rfl, ?_, rfl⟩
  simp [-List.reduceReplicate, isValidData_iff, longest, List.mem_replicate]

/-- `StateCodes`: its last clause, at the codes 5 and 7. -/
theorem test_witness_StateCodes : (∀ st : XeState, st.code ≠ 5#3) ∧ (∀ st : XeState, st.code ≠ 7#3) :=
  ⟨fun st => by cases st <;> decide, fun st => by cases st <;> decide⟩

/-- `StepRunsTheDecodedInstruction`, one witness for each of its seven clauses. -/
theorem test_witness_StepRuns_fetch :
    fetch { start with events := [.request (.describeSw 1#32)] } = some (.describeSw 1#32, start) := by rfl
theorem test_witness_StepRuns_request :
    ({ start with events := [.request (.decodeAtr [])] } : State).EventTurn (.request (.decodeAtr [])) [] ∧
    decode (.request (.decodeAtr [])) = .ok (.decodeAtr []) := ⟨⟨rfl, rfl⟩, rfl⟩
theorem test_witness_StepRuns_answer :
    ({ waitingForAnswer with events := [.answer 1 (.bytes [0x90#8, 0x00#8])] } : State).EventTurn
      (.answer waitingForAnswer.calls.length (.bytes [0x90#8, 0x00#8])) [] ∧
    waitingForAnswer.xe.state = .sending ∧ waitingForAnswer.xe.txPending = true ∧
    decode (.bytes .response [0x90#8, 0x00#8]) = .ok (.response [] 0x90#8 0x00#8) := ⟨⟨rfl, rfl⟩, rfl, rfl, rfl⟩
theorem test_witness_StepRuns_waiting :
    ({ start with waiting := [(session, readBinary)] } : State).XeTurn [] ∧ start.xe.state = .idle :=
  ⟨⟨rfl, .inl ⟨rfl, rfl⟩⟩, rfl⟩
theorem test_witness_StepRuns_continuation :
    ({ start with xe := awaiting 0#8, events := [.xe, .reset] } : State).XeTurn [.reset] ∧
    (awaiting 0#8).state = .awaitingContinuation ∧ (awaiting 0#8).sw = some { sw1 := 0x61#8, sw2 := 0x05#8 } :=
  ⟨xeTurn_listed _, rfl, rfl⟩
theorem test_witness_StepRuns_character :
    (decoding 6).atrd.place = some .ta ∧ decode (.bytes .ta ((decoding 6).atrd.bytesAt .ta)) = .ok (.atrTaI 0x44#8) := by
  decide
theorem test_witness_StepRuns_status :
    waitingForAnswer.xe.state = .sending ∧ waitingForAnswer.xe.txPending = true ∧
    decode (.bytes .statusWord [0x61#8, 0x00#8]) = .ok (.swMoreData 0x00#8) := by decide

/-- `IdleAcceptsAWaitingExchange`, with one and with two requests waiting. -/
theorem test_witness_IdleAccepts :
    ({ start with waiting := [(session, readBinary)] } : State).XeTurn [] ∧
    ({ start with waiting := [(session, readBinary), (session, longest)], events := [.xe] } : State).XeTurn [] ∧
    start.xe.state = .idle ∧ [(session, readBinary)] ≠ [] :=
  ⟨⟨rfl, .inl ⟨rfl, rfl⟩⟩, ⟨rfl, .inr rfl⟩, rfl, by simp⟩

theorem test_witness_CharacterRows : start.atrd = AtrWork.idle := rfl
theorem test_witness_ShortAtr : ([] : List Byte).length < 2 ∧ [0x3F#8].length < 2 := by decide
/-- `InitialCharacter`: a bad TS on either side of each legal one, and records of both conventions (S2, V-A4). -/
theorem test_witness_InitialCharacter :
    (∀ ts ∈ [0x3A#8, 0x3C#8, 0x3E#8, 0x40#8], ts ≠ 0x3B#8 ∧ ts ≠ 0x3F#8) ∧
    (∃ r, runAtr Config.default [0x3B#8, 0x00#8] = .ok r) ∧ (∃ r, runAtr Config.default [0x3F#8, 0x00#8] = .ok r) :=
  ⟨by decide, ⟨_, rfl⟩, ⟨_, rfl⟩⟩
/-- The statements about a record (`AtrLengthLaw`, `GroupsFollowTheTdChain`, `CheckByteFollowsTheProtocols`,
`Ta1IsInterpretedThroughTheTables`, `TrailingBytesAreRefused`): V-A22 and the smallest ATR. -/
theorem test_witness_record :
    (∃ r, runAtr Config.default threeGroups = .ok r) ∧ (∃ r, runAtr Config.default [0x3B#8, 0x00#8] = .ok r) ∧
    [0xFF#8] ≠ ([] : List Byte) := ⟨⟨_, rfl⟩, ⟨_, rfl⟩, by decide⟩
/-- V-A20: a check byte that is wrong by the card's rule. -/
theorem test_witness_CheckByteIsNotValidated :
    ∃ r, runAtr Config.default ([0x3B#8, 0x90#8, 0x11#8, 0x01#8] ++ [0x5A#8]) = .ok r ∧ r.checkByte ≠ none :=
  ⟨_, rfl, by decide⟩

theorem test_witness_TsRows : (decoding 0).atrd.place = some .ts := by decide
theorem test_witness_T0Row : (decoding 1).atrd.place = some .t0 := by decide
/-- `InterfaceByteRowsComplete` and `TdRowCompletes`, the check met (for TA2 with equality). -/
theorem test_witness_InterfaceByteRows :
    ((decoding 2).atrd.place = some .ta1 ∧ (decoding 3).atrd.place = some .tb ∧ (decoding 4).atrd.place = some .tc ∧
      (decoding 5).atrd.place = some .td ∧ (decoding 6).atrd.place = some .ta) ∧
    (∀ n ∈ [2, 3, 4, 5], (decoding n).atrd.isTruncated = false) ∧
    (decoding 6).atrd.cur + 1 + ((decoding 6).atrd.k + if (decoding 6).atrd.anyNonT0 then 1 else 0)
      = (decoding 6).atrd.raw.length := by decide
/-- `TruncationCheckComesFirst`, one byte too few at each of the five places. -/
theorem test_witness_Truncation :
    ((decodingShort 2).atrd.place = some .ta1 ∧ (decodingShort 3).atrd.place = some .tb ∧
      (decodingShort 4).atrd.place = some .tc ∧ (decodingShort 5).atrd.place = some .td ∧
      (decodingShort 6).atrd.place = some .ta) ∧
    (∀ n ∈ [2, 3, 4, 5, 6],
      (decodingShort n).atrd.cur + 1 + ((decodingShort n).atrd.k + if (decodingShort n).atrd.anyNonT0 then 1 else 0)
        = (decodingShort n).atrd.raw.length + 1) := by decide
/-- `HistoricalAndCheckByteRowsComplete`: the bytes there, and one byte too few. -/
theorem test_witness_HistoricalAndCheckByte :
    ((decoding 7).atrd.place = some (.hb [0xAA#8].length) ∧ (decoding 7).atrd.cur + 1 ≤ (decoding 7).atrd.raw.length) ∧
    ((decoding 8).atrd.place = some .tck ∧ (decoding 8).atrd.cur + 1 = (decoding 8).atrd.raw.length) ∧
    (start.withAtrd { (decoding 7).atrd with raw := fullAtr.take 7 }).atrd.cur + 1 > (fullAtr.take 7).length ∧
    (start.withAtrd { (decoding 8).atrd with raw := fullAtr.take 8 }).atrd.cur + 1 > (fullAtr.take 8).length ∧
    (start.withAtrd { (decoding 7).atrd with raw := fullAtr.take 7 }).atrd.place = some (.hb 1) ∧
    (start.withAtrd { (decoding 8).atrd with raw := fullAtr.take 8 }).atrd.place = some .tck := by decide
/-- `RowsElsewhereWriteNothing`, its two clauses. -/
theorem test_witness_RowsElsewhere_character :
    encode (.atrHb [0xAA#8]) = .bytes (.hb 1) [0xAA#8] ∧ (decoding 6).atrd.place ≠ some (.hb 1) ∧
    encode (.atrTsDirect) = .bytes .ts [0x3B#8] ∧ start.atrd.place ≠ some .ts := by decide
theorem test_witness_RowsElsewhere_exchange :
    (encode (.apduCase1 0#8 0#8 0#8 0#8) = .bytes .commandFrame [0#8, 0#8, 0#8, 0#8] ∧ failed.state ≠ .idle) ∧
    (encode (.getResponse 0#8) = .bytes .getResponseFrame [0#8, 0xC0#8, 0#8, 0#8, 0#8] ∧
      start.xe.state ≠ .awaitingContinuation) ∧
    (encode .swSuccess = .bytes .statusWord [0x90#8, 0x00#8] ∧ start.xe.state ≠ .sending) ∧
    (encode (.responseShort none) = .bytes .response [] ∧ (sending false).txPending = false) := by decide

/-- `ExchangeNamesTheFirstInvalidField`: every field, at 256 (V-X11). -/
theorem test_witness_InvalidField :
    firstInvalidField { readBinary with cla := 256 } = some .cla ∧
    firstInvalidField { readBinary with ins := 256 } = some .ins ∧
    firstInvalidField { readBinary with p1 := 256 } = some .p1 ∧
    firstInvalidField { readBinary with p2 := 256 } = some .p2 ∧
    firstInvalidField { readBinary with data := some [1, 256] } = some .data ∧
    firstInvalidField { readBinary with le := some 256 } = some .le ∧ start.xe.state = .idle := by decide
/-- `ExchangeAcceptsAValidCommand`, `ExchangeRunsItsFrameRow`, `CommandFrameRowsWriteTheFrame`, and `CallsAreBounded`'s second
clause. -/
theorem test_witness_accepts :
    start.xe.state = .idle ∧ firstInvalidField readBinary = none ∧
    firstInvalidField { readBinary with cla := 255, le := some 255, data := some [255] } = none := by decide
/-- `ExchangeWaitsWhileXeIsBusy`: XE busy; and `Idle` with one valid or one invalid request waiting. -/
theorem test_witness_ExchangeWaits :
    (sending true).state ≠ .idle ∧ firstInvalidField { readBinary with le := some 300 } = some .le ∧
    ({ start with waiting := [(session, readBinary)], events := [.xe, .reset] } : State).XeTurn [.reset] :=
  ⟨by decide, by decide, ⟨rfl, .inr rfl⟩⟩

/-- `IssueMakesOneCallAndWaits`: the issue, and the wait of V-X20. -/
theorem test_witness_Issue :
    (({ start with xe := sending false } : State).XeTurn [] ∧ (sending false).session = some session ∧
      (sending false).txPending = false) ∧
    (({ start with xe := sending true, events := [.xe, .reset] } : State).XeTurn [.reset] ∧
      (sending true).state = .sending ∧ (sending true).txPending = true) :=
  ⟨⟨xeTurn_alone _, rfl, rfl⟩, xeTurn_listed _, rfl, rfl⟩
/-- `TransportFailureEndsTheExchange` (V-X7a). -/
theorem test_witness_TransportFailure :
    ({ waitingForAnswer with events := [.answer 1 (.failure { name := "info0" })] } : State).EventTurn
      (.answer waitingForAnswer.calls.length (.failure { name := "info0" })) [] ∧
    waitingForAnswer.xe.state = .sending ∧ waitingForAnswer.xe.txPending = true := ⟨⟨rfl, rfl⟩, rfl, rfl⟩
/-- `ShortResponseIsEmptyResponse`, `ResponseIsSplitAppendedAndSorted`, `StatusWordRowsMoveXe`,
`EngineAgreesWithTheClassification`: XE waits for an answer; and the classes of the last. -/
theorem test_witness_waitsForAnswer :
    waitingForAnswer.xe.state = .sending ∧ waitingForAnswer.xe.txPending = true ∧ [0x61#8].length < 2 ∧
    classify Config.default 0x61#8 0xFF#8 = .moreDataAvailable 0xFF#8 ∧ classify Config.default 0x90#8 0x01#8 = .unknown ∧
    classify { Config.default with swCatalog := [(0x9001#16, { text := "x" })] } 0x90#8 0x01#8
      = .warningOrError { text := "x" } := by decide
/-- `CapEndsTheContinuation` at the cap, `GetResponseContinuesBelowTheCap` one below it. -/
theorem test_witness_cap :
    (awaiting 32#8).rounds.toNat = start.cfg.maxContinuations.val ∧
    (awaiting 31#8).rounds.toNat < start.cfg.maxContinuations.val ∧
    (awaiting 31#8).state = .awaitingContinuation := by decide
/-- `DoneDeliversTheBody`. -/
theorem test_witness_Done :
    ({ start with xe := finished } : State).Inv ∧ ({ start with xe := finished } : State).XeTurn [] ∧ finished.state = .done :=
  ⟨test_inv_finished, xeTurn_alone _, rfl⟩
/-- `FailedDeliversTheError`. -/
theorem test_witness_Failed :
    ({ start with xe := failed, events := [.xe, .reset] } : State).XeTurn [.reset] ∧ failed.state = .failed ∧
    failed.error = some .emptyResponse := ⟨xeTurn_listed _, rfl, rfl⟩
/-- `ResetClearsXeAndKeepsTheConfiguration` (P5). -/
theorem test_witness_Reset : ({ waitingForAnswer with events := [.reset] } : State).EventTurn .reset [] := ⟨rfl, rfl⟩
/-- `AbandonedAnswersAreDiscarded`: XE `Idle`, no call outstanding, another call outstanding. -/
theorem test_witness_Abandoned :
    (({ start with events := [.answer 1 (.bytes [])], calls := [firstCall] } : State).EventTurn (.answer 1 (.bytes [])) [] ∧
      start.xe.state ≠ .sending) ∧
    (sending false).txPending = false ∧
    (({ waitingForAnswer with events := [.answer 0 (.bytes [])] } : State).EventTurn (.answer 0 (.bytes [])) [] ∧
      0 ≠ waitingForAnswer.calls.length) := ⟨⟨⟨rfl, rfl⟩, by decide⟩, rfl, ⟨rfl, rfl⟩, by decide⟩
/-- `DescribeSwLooksUpTheStatusCatalog`: the last 16-bit code and the first above. -/
theorem test_witness_DescribeSw : (0xFFFF#16).toNat = (0xFFFF#32).toNat ∧ 0xFFFF < (0x10000#32).toNat := by decide
theorem test_witness_Stateless : ∀ ses cmd, Request.describeSw 1#32 ≠ .exchange ses cmd := by intro _ _ h; cases h
/-- `InstructionsMakeNoCall`, its last clause: a row that is no host request. -/
theorem test_witness_NoRequest : ∀ r : Request, Instr.swSuccess ≠ r.instr := by intro r h; cases r <;> cases h
/-- `StepKeepsTheInvariant`, `BlockNeverStops` and the statements over a step that answers a next state. -/
theorem test_witness_step :
    ({ waitingForAnswer with events := [.answer 1 (.bytes [0x61#8, 0x05#8])] } : State).Inv ∧
    (xeAfter (step { waitingForAnswer with events := [.answer 1 (.bytes [0x61#8, 0x05#8])] })).map Xe.state
      = some .awaitingContinuation ∧ waitingForAnswer.xe.state ≠ .idle :=
  ⟨⟨rfl, (test_inv_sending true).2.1, fun _ => ⟨session, rfl, rfl⟩⟩, by decide, by decide⟩
/-- `ExchangeEndsWhenTheTransportAnswers`. -/
theorem test_witness_ExchangeEnds :
    ({ start with xe := sending true, calls := [firstCall] } : State).Inv ∧ start.events = [] ∧ (sending true).state ≠ .idle :=
  ⟨test_inv_sending true, rfl, by decide⟩
/-- `FirstBadTokenIsNamed`: a good token before a bad one (V-T6). -/
theorem test_witness_FirstBadToken :
    (∀ u ∈ [['3', 'B']], ∃ b, parseToken u = .ok b) ∧ (∀ b, parseToken ['6'] ≠ .ok b) :=
  ⟨by simpa using ⟨_, rfl⟩, by intro b h; cases h⟩

end Sys2Proof.Tests
end

section
/-! PROOFS. The codes of `XE.state`, and what every step keeps: the configuration, the latched session, the results delivered
and the invariant of the registers. Each is shown once for a `Move` and carried to `step` by `step_cases`. -/

namespace Sys2Proof.Machine

open Sys2Proof

/-! ### The codes of `XE.state` -/

theorem XeState.ofCode_code (st : XeState) : XeState.ofCode st.code = .ok st := by
  cases st <;> rfl

/-- A code that is no state's passes every comparison of `XeState.ofCode` (I14). -/
theorem XeState.ofCode_illegal (c : BitVec 3) (h : ∀ st : XeState, st.code ≠ c) :
    XeState.ofCode c = .error .illegalStateCode := by
  have h0 : c ≠ 0#3 := (h .idle).symm
  have h1 : c ≠ 1#3 := (h .sending).symm
  have h2 : c ≠ 2#3 := (h .awaitingContinuation).symm
  have h3 : c ≠ 3#3 := (h .done).symm
  have h4 : c ≠ 4#3 := (h .failed).symm
  simp [XeState.ofCode, h0, h1, h2, h3, h4]

/-- Settles O6: the codes are read off the definition; reading back is `ofCode_code` and `ofCode_illegal`. -/
theorem stateCodes : Obligations.StateCodes :=
  ⟨rfl, rfl, rfl, rfl, rfl, XeState.ofCode_code, XeState.ofCode_illegal⟩

/-! ### What every move leaves alone -/

/-- No move writes the configuration (rule R272). -/
theorem Move.cfg_eq {s t : State} (hm : Move s t) : t.cfg = s.cfg := by
  cases hm <;> rfl

/-- Only the moves of a decode write its working variables (rule R39). -/
theorem Move.atrd_eq {s t : State} (hm : Move s t) (inactive : s.atrd.active = false) : t.atrd = s.atrd := by
  cases hm with
  | character _ active | decoded active => simp [inactive] at active
  | _ => rfl

/-- Outside `Idle` the session is kept, but for the two deliveries and reset, which clear every register (rule R178). -/
theorem Move.session_eq_or_reset {s t : State} (hm : Move s t) (busy : s.xe.state ≠ .idle) :
    t.xe.session = s.xe.session ∨ t.xe = Xe.reset := by
  cases hm with
  | invalid _ _ idle | accept _ _ idle => exact absurd idle busy
  | deliverOk | leaveError | reset => exact .inr rfl
  | _ => exact .inl rfl

/-- The results delivered are unchanged or one longer; the result of an exchange comes from the two deliveries only, in `Done`
and in `Failed` (rules R173, R174). -/
theorem Move.delivered_cases {s t : State} (hm : Move s t) :
    t.delivered = s.delivered ∨
    ∃ r, t.delivered = s.delivered ++ [r] ∧ ((∃ x, r = .exchange x) → s.xe.state ≠ .idle ∧ t.xe = Xe.reset) := by
  cases hm with
  | decoded => exact .inr ⟨_, rfl, by simp⟩
  | atrResult | description => exact .inr ⟨_, rfl, by simp⟩
  | deliverOk _ done => exact .inr ⟨_, rfl, fun _ => ⟨by simp [done], rfl⟩⟩
  | leaveError _ failed => exact .inr ⟨_, rfl, fun _ => ⟨by simp [failed], rfl⟩⟩
  | _ => exact .inl rfl

/-- Settles O52: taking the port input keeps the configuration, and so does every move. -/
theorem configurationIsReadOnly : Obligations.ConfigurationIsReadOnly := by
  intro s t h
  obtain ⟨s', hp, hm⟩ := step_cases s t h
  exact hm.cfg_eq.trans hp.cfg

/-- Settles O55, by the cases of a move out of a busy state. -/
theorem sessionIsLatched : Obligations.SessionIsLatched := by
  intro s t h busy
  obtain ⟨s', hp, hm⟩ := step_cases s t h
  have hs := hm.session_eq_or_reset (hp.xe ▸ busy)
  rwa [hp.xe] at hs

/-- Settles O56, by the moves that deliver. -/
theorem deliveryLeavesNothingBehind : Obligations.DeliveryLeavesNothingBehind := by
  intro s t h
  obtain ⟨s', hp, hm⟩ := step_cases s t h
  have hd := hm.delivered_cases
  rwa [hp.delivered, hp.xe] at hd

/-! ### The invariant, state by state -/

section
variable {cfg : Config} {x : Xe}

theorem Xe.ok_idle_iff (h : x.state = .idle) : x.Ok cfg ↔ x = Xe.reset := by simp [Xe.Ok, h]

theorem Xe.ok_sending_iff (h : x.state = .sending) : x.Ok cfg ↔ x.SendingOk cfg := by simp [Xe.Ok, h]

theorem Xe.ok_awaiting_iff (h : x.state = .awaitingContinuation) : x.Ok cfg ↔ x.AwaitingOk cfg := by simp [Xe.Ok, h]

theorem Xe.ok_done_iff (h : x.state = .done) : x.Ok cfg ↔ x.DoneOk cfg := by simp [Xe.Ok, h]

theorem Xe.ok_failed_iff (h : x.state = .failed) : x.Ok cfg ↔ x.FailedOk cfg := by simp [Xe.Ok, h]

theorem Xe.reset_ok (cfg : Config) : Xe.reset.Ok cfg := (Xe.ok_idle_iff rfl).2 rfl

theorem Xe.Ok.sendingOk (hx : x.Ok cfg) (waits : x.waitsForAnswer = true) : x.SendingOk cfg :=
  (Xe.ok_sending_iff ((waitsForAnswer_iff x).1 waits).1).1 hx

/-! ### What each register write keeps of it -/

theorem isFrameLength_getResponseFrame (l : Byte) : isFrameLength (getResponseFrame l).length := by
  simp [isFrameLength, getResponseFrame]

/-- The frame of a command that passes the check of rule R161 has a frame's length (rule R33). -/
theorem isFrameLength_serialize (cmd : ApduCommand) (h : firstInvalidField cmd = none) :
    isFrameLength (serialize cmd).length := by
  obtain ⟨-, -, -, -, hdata, -⟩ := (firstInvalidField_eq_none cmd).1 h
  exact serialize_length_bounds cmd hdata

/-- Acceptance (rules R162, R163) starts the first round, whatever the registers held before. -/
theorem Xe.accept_ok (x : Xe) (session : Session) (frame : List Byte) (hf : isFrameLength frame.length) :
    ((x.putFrame frame).accept session).Ok cfg :=
  (Xe.ok_sending_iff rfl).2 ⟨rfl, rfl, hf, Nat.zero_le _, fun _ => ⟨rfl, rfl⟩, fun h => absurd rfl h⟩

/-- `SendingOk` does not speak of `XE.txPending`, the one register the issue step writes (rule R164). -/
theorem Xe.markIssued_ok (sending : x.state = .sending) (hx : x.Ok cfg) : x.markIssued.Ok cfg :=
  (Xe.ok_sending_iff (by simpa using sending)).2 ((Xe.ok_sending_iff sending).1 hx)

/-- Entry to an error (rule R251): what is left to show is that the error fits the registers. -/
theorem Xe.enterError_ok (e : XeError) (hr : x.RoundsInCap cfg) (he : (x.enterError e).ErrorOk cfg e) :
    (x.enterError e).Ok cfg :=
  (Xe.ok_failed_iff rfl).2 ⟨rfl, hr, e, rfl, he⟩

/-- A continuation round below the cap (rule R172): the counter stays in the cap and does not wrap to the first round. -/
theorem Xe.continueWith_ok (l : Byte) (hx : x.AwaitingOk cfg) (below : capReached cfg x = false)
    (status : x.sw = some { sw1 := 0x61#8, sw2 := l }) : (x.continueWith l).Ok cfg := by
  obtain ⟨-, hsession, herror, -, -, -⟩ := hx
  have hlt : x.rounds.toNat < cfg.maxContinuations.val := by simpa [capReached] using below
  have hsucc := rounds_succ_toNat cfg x below
  have hne : x.rounds + 1#8 ≠ 0#8 := fun h => by simp [h] at hsucc
  refine (Xe.ok_sending_iff rfl).2 ⟨hsession, herror, isFrameLength_getResponseFrame l, ?_, fun h => absurd h hne,
    fun _ => ⟨l, status, rfl⟩⟩
  simp only [Xe.RoundsInCap, Xe.continueWith_rounds, hsucc]
  omega

end

/-! ### Every move keeps the invariant -/

/-- Every move leaves the registers as the rules say (rules R161 to R174, R251, R270). -/
theorem Move.xe_ok {s t : State} (hm : Move s t) (hx : s.xe.Ok s.cfg) : t.xe.Ok s.cfg := by
  cases hm with
  | stay | character | decoded | atrResult | description | enqueue => exact hx
  | invalid _ f idle =>
    rw [State.enterError_xe, (Xe.ok_idle_iff idle).1 hx]
    exact Xe.enterError_ok _ (Nat.zero_le _) ⟨rfl, rfl, rfl, rfl, rfl⟩
  | accept session cmd _ ok => exact Xe.accept_ok s.xe session _ (isFrameLength_serialize cmd ok)
  | issue _ sending => exact Xe.markIssued_ok sending hx
  | failure info waits =>
    obtain ⟨hsession, -, -, hrounds, -, -⟩ := hx.sendingOk waits
    exact Xe.enterError_ok _ hrounds hsession
  | short waits =>
    obtain ⟨hsession, -, -, hrounds, -, -⟩ := hx.sendingOk waits
    exact Xe.enterError_ok _ hrounds hsession
  | success pre waits =>
    obtain ⟨hsession, herror, hframe, hrounds, -, -⟩ := hx.sendingOk waits
    exact (Xe.ok_done_iff rfl).2 ⟨rfl, hsession, herror, hframe, hrounds, rfl⟩
  | moreData pre l waits =>
    obtain ⟨hsession, herror, hframe, hrounds, -, -⟩ := hx.sendingOk waits
    exact (Xe.ok_awaiting_iff rfl).2 ⟨rfl, hsession, herror, hframe, hrounds, l, rfl⟩
  | cardStatus pre sw1 sw2 waits other =>
    obtain ⟨hsession, -, -, hrounds, -, -⟩ := hx.sendingOk waits
    exact Xe.enterError_ok _ hrounds ⟨hsession, rfl, other, rfl⟩
  | cap awaiting reached =>
    obtain ⟨-, hsession, -, -, hrounds, -⟩ := (Xe.ok_awaiting_iff awaiting).1 hx
    exact Xe.enterError_ok _ hrounds ⟨hsession, Nat.le_antisymm hrounds ((capReached_iff _ _).1 reached)⟩
  | deliverOk | leaveError | reset => exact Xe.reset_ok _
  -- the case left is `Move.continue`, whose name is a keyword and cannot label a case
  | _ l awaiting below status => exact Xe.continueWith_ok l ((Xe.ok_awaiting_iff awaiting).1 hx) below status

/-- XE waits for an answer after a move only when it waited for the same one before, or the move is the issue step. -/
theorem Move.waits_cases {s t : State} (hm : Move s t) (waits : t.xe.waitsForAnswer = true) :
    (t.xe = s.xe ∧ t.calls = s.calls) ∨ ∃ session, s.xe.session = some session ∧ t = s.issue session := by
  cases hm with
  | stay | character | decoded | atrResult | description | enqueue => exact .inl ⟨rfl, rfl⟩
  | issue session _ _ latched => exact .inr ⟨session, latched, rfl⟩
  | _ => simp [Xe.waitsForAnswer] at waits

theorem issue_outstandingOk {s : State} {session : Session} (latched : s.xe.session = some session) :
    (s.issue session).OutstandingOk :=
  fun _ => ⟨session, latched, by simp⟩

theorem Move.outstandingOk {s t : State} (hm : Move s t) (ho : s.OutstandingOk) : t.OutstandingOk := by
  intro waits
  obtain ⟨hxe, hcalls⟩ | ⟨session, latched, rfl⟩ := hm.waits_cases waits
  · rw [hxe, hcalls]
    exact ho (hxe ▸ waits)
  · exact issue_outstandingOk latched waits

theorem Move.inv {s t : State} (hm : Move s t) (hs : s.Inv) : t.Inv := by
  obtain ⟨hatrd, hxe, hout⟩ := hs
  exact ⟨(hm.atrd_eq (by rw [hatrd]; rfl)).trans hatrd, by rw [hm.cfg_eq]; exact hm.xe_ok hxe, hm.outstandingOk hout⟩

/-- The invariant does not speak of what a step takes from the ports. -/
theorem SamePorts.inv {s s' : State} (hp : SamePorts s s') (hs : s.Inv) : s'.Inv := by
  unfold State.Inv State.OutstandingOk at hs ⊢
  rwa [hp.atrd, hp.xe, hp.cfg, hp.calls]

theorem resetWith_inv (cfg : Config) : (State.resetWith cfg).Inv :=
  ⟨rfl, Xe.reset_ok cfg, fun waits => by cases waits⟩

/-- Settles O49: every register has its reset value and no call is outstanding. -/
theorem invariantHoldsAtReset : Obligations.InvariantHoldsAtReset :=
  ⟨resetWith_inv, resetWith_inv Config.atStart⟩

/-- Settles O50: taking the port input keeps the invariant, and so does every move. -/
theorem stepKeepsTheInvariant : Obligations.StepKeepsTheInvariant := by
  intro s t hs h
  obtain ⟨s', hp, hm⟩ := step_cases s t h
  exact hm.inv (hp.inv hs)

end Sys2Proof.Machine
end

section
/-! PROOFS. The two ports of the block: what a request that needs no XE delivers, and when a step makes a transport call. -/

namespace Sys2Proof.Machine

open Sys2Proof

/-- DECODE_ATR and the two DESCRIBE requests deliver one result, which only the configuration decides (rules R144, R206, R207). -/
theorem exec_stateless_delivers (cfg : Config) (r : Request) (stateless : ∀ session cmd, r ≠ .exchange session cmd) :
    ∃ d, ∀ s : State, s.cfg = cfg → exec r.instr s = .next (s.deliver d) := by
  cases r with
  | decodeAtr raw => exact ⟨.atr (runAtr cfg raw), by rintro s rfl; rfl⟩
  | exchange session cmd => exact absurd rfl (stateless session cmd)
  | describeSw code => exact ⟨.description (describeSwResult cfg code), by rintro s rfl; rfl⟩
  | describeTransport code => exact ⟨.description (transportCatalogAt cfg code), by rintro s rfl; rfl⟩

/-- Settles O48: both runs deliver the result that the configuration, the same in both, decides. -/
theorem statelessRequestsAreIndependentOfXe : Obligations.StatelessRequestsAreIndependentOfXe := by
  intro s x r stateless
  obtain ⟨d, hd⟩ := exec_stateless_delivers s.cfg r stateless
  exact ⟨s.deliver d, hd s rfl, hd (s.withXe x) rfl, rfl, rfl, rfl, rfl, d, rfl⟩

/-- Only the issue step makes a call, and only when none is outstanding (rules R164, R178). -/
theorem Move.calls_cases {s t : State} (hm : Move s t) :
    t.calls = s.calls ∨
    (s.xe.state = .sending ∧ s.xe.txPending = false ∧ ∃ session, s.xe.session = some session ∧ t = s.issue session) := by
  cases hm with
  | issue session sending free latched => exact .inr ⟨sending, free, session, latched, rfl⟩
  | _ => exact .inl rfl

/-- Settles O54: the one move that makes a call is the issue step, and taking the port input makes none. -/
theorem oneCallAtATime : Obligations.OneCallAtATime := by
  intro s t h
  obtain ⟨s', hp, hm⟩ := step_cases s t h
  rw [← hp.xe, ← hp.calls]
  obtain same | ⟨sending, free, session, latched, rfl⟩ := hm.calls_cases
  · exact .inl same
  · exact .inr ⟨sending, free, sending, rfl, rfl, session, latched, rfl⟩

end Sys2Proof.Machine
end

section
/-! PROOFS. The encodings of spec/30_encoding.md: the decoder undoes the encoder at every position, what it reads is exactly what
was written there, and the serialization of a command is the frame of its case. -/

namespace Sys2Proof

/-! ### Characters and status words -/

theorem decodeTs_illegal {ts : Byte} (h : isLegalTs ts = false) : decodeTs ts = .atrTsIllegal ts := by
  simp_all [isLegalTs, decodeTs]

theorem decodeTs_exact (b : Byte) : (decodeTs b).wellFormed = true ∧ encode (decodeTs b) = .bytes .ts [b] := by
  unfold decodeTs
  split
  · next h => subst h; exact ⟨rfl, rfl⟩
  · split
    · next h => subst h; exact ⟨rfl, rfl⟩
    · exact ⟨by simp_all [Instr.wellFormed, isLegalTs], rfl⟩

theorem isNamedStatus_eq_false (sw1 sw2 : Byte) :
    isNamedStatus sw1 sw2 = false ↔ ¬(sw1 = 0x90#8 ∧ sw2 = 0x00#8) ∧ sw1 ≠ 0x61#8 := by
  simp [isNamedStatus]

theorem decodeStatus_other {sw1 sw2 : Byte} (h : isNamedStatus sw1 sw2 = false) :
    decodeStatus sw1 sw2 = .swOther sw1 sw2 := by
  obtain ⟨h1, h2⟩ := (isNamedStatus_eq_false sw1 sw2).1 h
  rw [decodeStatus, if_neg h1, if_neg h2]

theorem decodeStatus_exact (sw1 sw2 : Byte) :
    (decodeStatus sw1 sw2).wellFormed = true ∧ encode (decodeStatus sw1 sw2) = .bytes .statusWord [sw1, sw2] := by
  unfold decodeStatus
  split
  · next h => obtain ⟨rfl, rfl⟩ := h; exact ⟨rfl, rfl⟩
  · next h1 =>
    split
    · next h => subst h; exact ⟨rfl, rfl⟩
    · next h2 => exact ⟨by simp [Instr.wellFormed, (isNamedStatus_eq_false sw1 sw2).2 ⟨h1, h2⟩], rfl⟩

theorem decodeOne_eq_ok {f : Byte → Instr} {bs : List Byte} {i : Instr} :
    decodeOne f bs = .ok i ↔ ∃ b, bs = [b] ∧ f b = i := by
  unfold decodeOne
  split <;> simp_all

/-! ### Responses (rule R93) -/

/-- A response holds no byte, one byte, or ends in a status word. -/
theorem response_cases (bs : List Byte) : bs = [] ∨ (∃ b, bs = [b]) ∨ ∃ pre sw1 sw2, bs = pre ++ [sw1, sw2] := by
  obtain rfl | ⟨front, sw2, rfl⟩ := bs.eq_nil_or_concat'
  · exact .inl rfl
  · obtain rfl | ⟨pre, sw1, rfl⟩ := front.eq_nil_or_concat'
    · exact .inr (.inl ⟨sw2, rfl⟩)
    · exact .inr (.inr ⟨pre, sw1, sw2, by simp⟩)

theorem decodeResponse_append (pre : List Byte) (sw1 sw2 : Byte) :
    decodeResponse (pre ++ [sw1, sw2]) = .response pre sw1 sw2 := by
  cases pre with
  | nil => rfl
  | cons b pre => cases pre <;> simp [decodeResponse]

theorem decodeResponse_exact (bs : List Byte) :
    (decodeResponse bs).wellFormed = true ∧ encode (decodeResponse bs) = .bytes .response bs := by
  obtain rfl | ⟨b, rfl⟩ | ⟨pre, sw1, sw2, rfl⟩ := response_cases bs
  · exact ⟨rfl, rfl⟩
  · exact ⟨rfl, rfl⟩
  · rw [decodeResponse_append]
    exact ⟨rfl, rfl⟩

/-! ### Command frames (rule R91) -/

theorem isDataLength_iff (n : Nat) : isDataLength n = true ↔ 1 ≤ n ∧ n ≤ 255 := by simp [isDataLength]

/-- The frame of a command with data: header, Lc, data, Le (rule R91). -/
theorem apduFrame_data (cla ins p1 p2 : Byte) {data : List Byte} (h : data ≠ []) (le : Option Byte) :
    apduFrame cla ins p1 p2 data le
      = cla :: ins :: p1 :: p2 :: BitVec.ofNat 8 data.length :: (data ++ le.toList) := by
  simp [apduFrame, h]

/-- Lc of 1 to 255 data bytes is their number and not 0 (rules R91, R99). -/
theorem lc_toNat {n : Nat} (h : isDataLength n = true) : (BitVec.ofNat 8 n).toNat = n := by
  have hn := (isDataLength_iff n).1 h
  rw [BitVec.toNat_ofNat, Nat.mod_eq_of_lt (by omega)]

theorem lc_ne_zero {n : Nat} (h : isDataLength n = true) : BitVec.ofNat 8 n ≠ 0x00#8 := by
  intro h0
  obtain rfl : 0 = n := (congrArg BitVec.toNat h0).symm.trans (lc_toNat h)
  cases h

/-- A frame with bytes after Lc is read by the two length equations. -/
theorem decodeCommandFrame_long (cla ins p1 p2 lc : Byte) {rest : List Byte} (h : rest ≠ []) :
    decodeCommandFrame (cla :: ins :: p1 :: p2 :: lc :: rest) =
      if lc = 0x00#8 then .error .frameLengthMismatch
      else if rest.length = lc.toNat then .ok (.apduCase3 cla ins p1 p2 rest)
      else if rest.length = lc.toNat + 1 then
        .ok (.apduCase4 cla ins p1 p2 (rest.take lc.toNat) (rest.getLastD 0x00#8))
      else .error .frameLengthMismatch := by
  cases rest with
  | nil => exact absurd rfl h
  | cons b rest => rfl

theorem decodeCommandFrame_case3 (cla ins p1 p2 : Byte) {data : List Byte} (h : isDataLength data.length = true) :
    decodeCommandFrame (apduFrame cla ins p1 p2 data none) = .ok (.apduCase3 cla ins p1 p2 data) := by
  have hne : data ≠ [] := by rintro rfl; cases h
  rw [apduFrame_data _ _ _ _ hne, decodeCommandFrame_long _ _ _ _ _ (by simpa using hne), if_neg (lc_ne_zero h)]
  simp [-BitVec.toNat_ofNat, lc_toNat h]

theorem decodeCommandFrame_case4 (cla ins p1 p2 : Byte) {data : List Byte} (le : Byte)
    (h : isDataLength data.length = true) :
    decodeCommandFrame (apduFrame cla ins p1 p2 data (some le)) = .ok (.apduCase4 cla ins p1 p2 data le) := by
  have hne : data ≠ [] := by rintro rfl; cases h
  rw [apduFrame_data _ _ _ _ hne, decodeCommandFrame_long _ _ _ _ _ (by simp), if_neg (lc_ne_zero h)]
  simp [-BitVec.toNat_ofNat, lc_toNat h]

theorem isDataLength_toNat {lc : Byte} (h : lc ≠ 0x00#8) : isDataLength lc.toNat = true := by
  have hlt := lc.isLt
  have hpos : lc.toNat ≠ 0 := fun h0 => h (BitVec.eq_of_toNat_eq h0)
  exact (isDataLength_iff _).2 (by omega)

/-- What the data of a frame that Lc counts are: a well-formed operand whose Lc is the one in the frame. -/
theorem apduFrame_of_length (cla ins p1 p2 : Byte) {lc : Byte} {data : List Byte} (hlc : lc ≠ 0x00#8)
    (hlen : data.length = lc.toNat) (le : Option Byte) :
    isDataLength data.length = true ∧
      apduFrame cla ins p1 p2 data le = cla :: ins :: p1 :: p2 :: lc :: (data ++ le.toList) := by
  have hwf : isDataLength data.length = true := hlen ▸ isDataLength_toNat hlc
  have hne : data ≠ [] := by rintro rfl; cases hwf
  exact ⟨hwf, by rw [apduFrame_data _ _ _ _ hne, hlen, BitVec.ofNat_toNat, BitVec.setWidth_eq]⟩

theorem decodeCommandFrame_exact {bs : List Byte} {i : Instr} (h : decodeCommandFrame bs = .ok i) :
    i.wellFormed = true ∧ encode i = .bytes .commandFrame bs := by
  unfold decodeCommandFrame at h
  split at h
  · cases h; exact ⟨rfl, rfl⟩
  · cases h; exact ⟨rfl, rfl⟩
  · next cla ins p1 p2 lc rest _ =>
    split at h
    · cases h
    · next hlc =>
      split at h
      · next hlen =>
        cases h
        obtain ⟨hwf, hframe⟩ := apduFrame_of_length cla ins p1 p2 hlc hlen none
        exact ⟨hwf, by simp [encode, hframe]⟩
      · split at h
        · next hlen =>
          obtain rfl | ⟨data, le, rfl⟩ := rest.eq_nil_or_concat'
          · simp at hlen
          · have hdata : data.length = lc.toNat := by simpa using hlen
            simp only [← hdata, List.take_left', List.getLastD_concat] at h
            cases h
            obtain ⟨hwf, hframe⟩ := apduFrame_of_length cla ins p1 p2 hlc hdata (some le)
            exact ⟨hwf, by simp [encode, hframe]⟩
        · cases h
  · cases h

theorem decodeGetResponse_exact {bs : List Byte} {i : Instr} (h : decodeGetResponse bs = .ok i) :
    i.wellFormed = true ∧ encode i = .bytes .getResponseFrame bs := by
  unfold decodeGetResponse at h
  split at h
  · split at h
    · next fixed =>
      obtain ⟨rfl, rfl, rfl, rfl⟩ := fixed
      cases h
      exact ⟨rfl, rfl⟩
    · cases h
  · cases h

/-! ### The whole decoder -/

/-- Settles O1, row by row: the rows with no side condition compute, and the others are read back by the lemma of their format. -/
theorem decodeEncodeRoundTrip : Obligations.DecodeEncodeRoundTrip := by
  intro i wf
  cases i with
  | atrTsIllegal ts =>
    have hts : isLegalTs ts = false := by simpa [Instr.wellFormed] using wf
    simp [encode, decode, decodeOne, decodeTs_illegal hts]
  | atrT0 y k => simp [encode, decode, decodeOne]
  | atrTa1 fi di => simp [encode, decode, decodeOne]
  | atrTdI y t => simp [encode, decode, decodeOne]
  | atrHb vs =>
    have hk : vs.length ≤ 15 := by simpa [Instr.wellFormed] using wf
    simp [encode, decode, hk]
  | apduCase3 cla ins p1 p2 data => exact decodeCommandFrame_case3 cla ins p1 p2 wf
  | apduCase4 cla ins p1 p2 data le => exact decodeCommandFrame_case4 cla ins p1 p2 le wf
  | swOther sw1 sw2 =>
    have hsw : isNamedStatus sw1 sw2 = false := by simpa [Instr.wellFormed] using wf
    simp [encode, decode, decodeStatus_other hsw]
  | responseShort b => cases b <;> rfl
  | response pre sw1 sw2 => simp [encode, decode, decodeResponse_append]
  | _ => rfl

/-- What the decoder reads is a row of the table, and was written by it. -/
theorem wellFormed_and_encode_of_decode {w : Wire} {i : Instr} (h : decode w = .ok i) :
    i.wellFormed = true ∧ encode i = w := by
  cases w with
  | request r => cases r <;> cases h <;> exact ⟨rfl, rfl⟩
  | bytes slot bs =>
    cases slot with
    | ts =>
      obtain ⟨b, rfl, rfl⟩ := decodeOne_eq_ok.1 h
      exact decodeTs_exact b
    | t0 | ta1 | td =>
      obtain ⟨b, rfl, rfl⟩ := decodeOne_eq_ok.1 h
      exact ⟨rfl, by simp [encode]⟩
    | ta | tb | tc | tck =>
      obtain ⟨b, rfl, rfl⟩ := decodeOne_eq_ok.1 h
      exact ⟨rfl, rfl⟩
    | hb k =>
      simp only [decode] at h
      split at h
      · next count =>
        obtain ⟨rfl, hk⟩ := count
        cases h
        exact ⟨by simpa [Instr.wellFormed] using hk, rfl⟩
      · cases h
    | commandFrame => exact decodeCommandFrame_exact h
    | getResponseFrame => exact decodeGetResponse_exact h
    | statusWord =>
      simp only [decode] at h
      split at h
      · cases h; exact decodeStatus_exact _ _
      · cases h
    | response => cases h; exact decodeResponse_exact bs

/-- Settles O2: another well-formed instruction with that encoding would be read back from it too (O1). -/
theorem decodeIsExact : Obligations.DecodeIsExact := by
  intro w i h
  obtain ⟨wf, henc⟩ := wellFormed_and_encode_of_decode h
  refine ⟨wf, henc, fun j hj hje => ?_⟩
  have hr := decodeEncodeRoundTrip j hj
  rw [hje, h] at hr
  exact (Except.ok.inj hr).symm

/-- Settles O3, by running the decoder on the fourteen words. -/
theorem writtenWordsDecode : Obligations.WrittenWordsDecode := by
  unfold Obligations.WrittenWordsDecode
  decide

/-- Settles O5, by the three facts about status-word codes. -/
theorem statusWordCode : Obligations.StatusWordCode :=
  fun sw1 sw2 => ⟨code16_toNat sw1 sw2, code16Hi_code16 sw1 sw2, code16Lo_code16 sw1 sw2⟩

end Sys2Proof

namespace Sys2Proof.Machine

open Sys2Proof

/-! ### The frame of a command (rule R91) -/

theorem encode_commandRow (c : ApduCommand) : encode (commandRow c) = .bytes .commandFrame (serialize c) := by
  unfold commandRow serialize
  split <;> simp [encode, *]

theorem dataBytes_length (c : ApduCommand) : (dataBytes c).length = (c.data.getD []).length := by simp [dataBytes]

/-- The row of a command that passes the check: with data, there are 1 to 255 bytes of them (rule R99). -/
theorem commandRow_wellFormed (c : ApduCommand) (h : isValidData c.data = true) : (commandRow c).wellFormed = true := by
  have hlen (hne : dataBytes c ≠ []) : isDataLength (dataBytes c).length = true :=
    (isDataLength_iff _).2 ⟨List.length_pos_iff.2 hne, dataBytes_length_le c h⟩
  unfold commandRow
  split
  · rfl
  · rfl
  · next hne => exact hlen hne
  · next hne => exact hlen hne

/-- Rule R91's formula, written out. -/
theorem serialize_eq (c : ApduCommand) :
    serialize c = [byteOf c.cla, byteOf c.ins, byteOf c.p1, byteOf c.p2]
      ++ (if 1 ≤ (c.data.getD []).length then byteOf (c.data.getD []).length :: (c.data.getD []).map byteOf else [])
      ++ (c.le.map byteOf).toList := by
  unfold serialize apduFrame dataBytes
  cases c.data.getD [] <;> simp [byteOf]

/-- Settles O4, by the facts about the serialization and the row of a command. -/
theorem serializationIsACaseFrame : Obligations.SerializationIsACaseFrame := by
  intro c ok
  obtain ⟨-, -, -, -, hdata, -⟩ := (firstInvalidField_eq_none c).1 ok
  refine ⟨?_, encode_commandRow c, commandRow_wellFormed c hdata, ?_, serialize_length_bounds c hdata⟩
  · rw [serialize_eq]
    cases c.data <;> cases c.le <;> rfl
  · rw [serialize_length, dataBytes_length]
    cases hd : c.data.getD [] <;> cases c.le <;> simp [dataBytes, hd] <;> omega

end Sys2Proof.Machine
end

section
/-! PROOFS. What a row does by the position its encoding stands at, and which row a step runs. -/

namespace Sys2Proof.Machine

open Sys2Proof

/-! ### Rows by their position -/

/-- The positions of an ATR's characters (rule R81). -/
def isCharacterSlot (slot : Slot) : Prop :=
  slot ≠ .commandFrame ∧ slot ≠ .getResponseFrame ∧ slot ≠ .statusWord ∧ slot ≠ .response

/-- The rows that are characters of an ATR, with the position and the bytes of each (rules R82 to R86). -/
inductive CharacterRow : Instr → Slot → List Byte → Prop
  | tsDirect : CharacterRow .atrTsDirect .ts [0x3B#8]
  | tsInverse : CharacterRow .atrTsInverse .ts [0x3F#8]
  | tsIllegal (b : Byte) : CharacterRow (.atrTsIllegal b) .ts [b]
  | t0 (y k : Nibble) : CharacterRow (.atrT0 y k) .t0 [ofNibbles y k]
  | ta1 (fi di : Nibble) : CharacterRow (.atrTa1 fi di) .ta1 [ofNibbles fi di]
  | ta (v : Byte) : CharacterRow (.atrTaI v) .ta [v]
  | tb (v : Byte) : CharacterRow (.atrTbI v) .tb [v]
  | tc (v : Byte) : CharacterRow (.atrTcI v) .tc [v]
  | td (y t : Nibble) : CharacterRow (.atrTdI y t) .td [ofNibbles y t]
  | hb (vs : List Byte) : CharacterRow (.atrHb vs) (.hb vs.length) vs
  | tck (c : Byte) : CharacterRow (.atrTck c) .tck [c]

section
variable {i : Instr} {slot : Slot} {bs : List Byte}

theorem characterRow_of_encode (henc : encode i = .bytes slot bs) (hslot : isCharacterSlot slot) :
    CharacterRow i slot bs := by
  obtain ⟨hcmd, hget, hsw, hresp⟩ := hslot
  cases i with
  | decodeAtr | exchange | describeSw | describeTransport => cases henc
  | apduCase1 | apduCase2 | apduCase3 | apduCase4 => cases henc; exact absurd rfl hcmd
  | getResponse => cases henc; exact absurd rfl hget
  | swSuccess | swMoreData | swOther => cases henc; exact absurd rfl hsw
  | responseShort | response => cases henc; exact absurd rfl hresp
  | _ => cases henc; constructor

/-- A character row writes the working variables of the decode and nothing else. -/
theorem CharacterRow.exec_eq (h : CharacterRow i slot bs) (s : State) :
    exec i s = .next (s.withAtrd (s.atrd.row s.cfg i)) := by
  cases h <;> rfl

/-- A character row consumes at its own position. -/
theorem CharacterRow.row_eq_consume (h : CharacterRow i slot bs) (cfg : Config) :
    ∃ write, ∀ w : AtrWork, w.row cfg i = w.consume slot write := by
  cases h <;> exact ⟨_, fun _ => rfl⟩

/-- A command-frame row puts its own encoding (rules R91, R162). -/
theorem exec_commandFrameRow (henc : encode i = .bytes .commandFrame bs) (s : State) :
    exec i s = .next (s.putCommandFrame bs) := by
  cases i <;> cases henc <;> rfl

theorem exec_getResponseRow (henc : encode i = .bytes .getResponseFrame bs) (s : State) :
    ∃ l, exec i s = execGetResponse l s := by
  cases i <;> cases henc
  exact ⟨_, rfl⟩

theorem exec_statusRow_elsewhere (henc : encode i = .bytes .statusWord bs) (s : State) (h : s.xe.state ≠ .sending) :
    exec i s = .next s := by
  cases i <;> cases henc <;> exact congrArg Host.Outcome.next (if_neg h)

theorem exec_responseRow_discarded (henc : encode i = .bytes .response bs) (s : State)
    (h : s.xe.waitsForAnswer = false) : exec i s = .next s := by
  cases i with
  | responseShort b => simp [exec, execResponseShort, h]
  | response pre sw1 sw2 => exact execResponse_notWaiting pre sw1 sw2 s h
  | _ => cases henc

end

/-- Settles O27: a character row consumes at its own position only, and each row of the exchange asks for its state of XE. -/
theorem rowsElsewhereWriteNothing : Obligations.RowsElsewhereWriteNothing := by
  refine ⟨fun s i slot bs henc hplace hslot => ?_, fun s i bs h => ?_⟩
  · have hchar : isCharacterSlot slot := by
      simp only [List.mem_cons, List.not_mem_nil, or_false] at hslot
      obtain rfl | rfl | rfl | rfl | rfl | rfl | rfl | rfl | rfl := hslot <;> simp [isCharacterSlot]
    have hrow := characterRow_of_encode henc hchar
    obtain ⟨write, hwrite⟩ := hrow.row_eq_consume s.cfg
    rw [hrow.exec_eq, hwrite, consume_elsewhere _ _ _ hplace, State.withAtrd_self]
  · obtain ⟨henc, hbusy⟩ | ⟨henc, hst⟩ | ⟨henc, hst⟩ | ⟨henc, hdone⟩ := h
    · rw [exec_commandFrameRow henc, putCommandFrame_busy s bs hbusy]
    · obtain ⟨l, hl⟩ := exec_getResponseRow henc s
      rw [hl, execGetResponse, if_neg hst]
    · exact exec_statusRow_elsewhere henc s hst
    · refine exec_responseRow_discarded henc s (Bool.eq_false_iff.2 fun waits => ?_)
      obtain ⟨hsending, hpending⟩ := (waitsForAnswer_iff _).1 waits
      obtain hst | htx := hdone
      · exact hst hsending
      · exact absurd (htx.symm.trans hpending) Bool.false_ne_true

/-! ### The first two characters -/

/-- A row whose character is awaited and passes its check writes what its meaning says. -/
theorem exec_consume_here {s : State} {i : Instr} {slot : Slot} {write : AtrWork → AtrWork}
    (hexec : exec i s = .next (s.withAtrd (s.atrd.consume slot write))) (hplace : s.atrd.place = some slot)
    (hcheck : s.atrd.shortfall slot = none) : exec i s = .next (s.withAtrd (write s.atrd)) := by
  rw [hexec, consume_here _ _ _ hplace hcheck]

/-- Settles O21: where TS is awaited no check comes before it, and the row writes its label or its error. -/
theorem tsRowsComplete : Obligations.TsRowsComplete := fun _ _ hplace =>
  ⟨(exec_consume_here rfl hplace rfl).trans rfl, (exec_consume_here rfl hplace rfl).trans rfl,
    (exec_consume_here rfl hplace rfl).trans rfl⟩

/-- The end of a group by whether its mask is used up (rule R129). -/
theorem closeGroup_eq (w : AtrWork) :
    w.closeGroup = { w with
      groups := if w.mask = 0#4 then w.groups ++ [w.group] else w.groups,
      phase := if w.mask = 0#4 then .hist else .group } := by
  unfold AtrWork.closeGroup
  split <;> simp [*]

/-- Settles O22: where T0 is awaited no check comes before it; the mask decides whether group 1 is closed. -/
theorem t0RowCompletes : Obligations.T0RowCompletes := by
  intro s y k hplace
  refine (exec_consume_here rfl hplace rfl).trans ?_
  rw [closeGroup_eq]
  rfl

/-! ### Acceptance -/

/-- Settles O30: each row puts the frame of rule R91's case. -/
theorem commandFrameRowsWriteTheFrame : Obligations.CommandFrameRowsWriteTheFrame := by
  intro s cla ins p1 p2 le d ds idle
  have puts {i : Instr} {frame : List Byte} (henc : encode i = .bytes .commandFrame frame) :
      exec i s = .next { s with xe := { s.xe with frame := frame } } := by
    rw [exec_commandFrameRow henc, putCommandFrame_idle s frame idle]
    rfl
  refine ⟨puts rfl, puts rfl, puts ?_, puts ?_⟩
  · simp [encode, apduFrame_data]
  · simp [encode, apduFrame_data]

/-- Settles O31: the row of the command puts its serialization, which is what acceptance puts. -/
theorem exchangeRunsItsFrameRow : Obligations.ExchangeRunsItsFrameRow := by
  intro s session cmd idle ok
  refine ⟨s.withXe (s.xe.putFrame (serialize cmd)), ?_, ?_⟩
  · rw [exec_commandFrameRow (encode_commandRow cmd), putCommandFrame_idle s _ idle]
  · rw [exec, execExchange_idle session cmd s idle, acceptExchange_valid s session cmd ok]
    rfl

/-! ### What a step runs -/

theorem step_fetched (s s' : State) (i : Instr) (h : fetch s = some (i, s')) : step s = exec i s' := by
  unfold fetch at h
  split at h
  · next hn => cases h; exact step_run s _ _ hn
  · cases h
  · cases h

/-- A status word is sorted by the row it decodes to (rule R95). -/
theorem exec_decodeStatus (sw1 sw2 : Byte) (s : State) : exec (decodeStatus sw1 sw2) s = s.sortStatus sw1 sw2 := by
  unfold decodeStatus State.sortStatus
  split
  · rfl
  · split <;> rfl

theorem pickWaiting_single (s : State) (r : Session × ApduCommand) (h : s.waiting = [r]) :
    s.pickWaiting = some (r, { s with waiting := [] }) := by
  simp [State.pickWaiting, h]

theorem step_request (s : State) (r : Request) (es : List Event) (h : s.EventTurn (.request r) es) :
    step s = exec r.instr (s.withEvents es) :=
  step_run _ _ _ (nextAction_event s _ es h)

theorem step_answer (s : State) (bs : List Byte) (es : List Event)
    (h : s.EventTurn (.answer s.calls.length (.bytes bs)) es) (hst : s.xe.state = .sending)
    (htx : s.xe.txPending = true) : step s = exec (decodeResponse bs) (s.withEvents es) := by
  have hexp : (s.withEvents es).expects s.calls.length = true := (expects_iff _ _).2 ⟨⟨hst, htx⟩, rfl⟩
  apply step_run
  rw [nextAction_event s _ es h, eventAction, answerAction, if_pos hexp]

theorem step_waiting (s : State) (es : List Event) (session : Session) (cmd : ApduCommand) (h : s.XeTurn es)
    (idle : s.xe.state = .idle) (hw : s.waiting = [(session, cmd)]) :
    step s = exec (.exchange session cmd) { s.withEvents es with waiting := [] } := by
  have hpick := pickWaiting_single (s.withEvents es) (session, cmd) hw
  apply step_run
  rw [nextAction_xe s es h, xeAction, State.withEvents_xe, idle]
  simp only [hpick]

theorem step_continuation (s : State) (es : List Event) (l : Byte) (h : s.XeTurn es)
    (awaiting : s.xe.state = .awaitingContinuation) (hsw : s.xe.sw = some { sw1 := 0x61#8, sw2 := l }) :
    step s = exec (.getResponse l) (s.withEvents es) := by
  apply step_run
  simp [nextAction_xe s es h, xeAction, awaiting, hsw]

theorem fetch_eq_some {w : AtrWork} {slot : Slot} {i : Instr} (hplace : w.place = some slot)
    (hdec : decode (.bytes slot (w.bytesAt slot)) = .ok i) : w.fetch = some i := by
  simp [AtrWork.fetch, hplace, hdec, Except.toOption]

theorem step_character (s : State) (slot : Slot) (i : Instr) (hplace : s.atrd.place = some slot)
    (hdec : decode (.bytes slot (s.atrd.bytesAt slot)) = .ok i) : step s = exec i s := by
  apply step_run
  rw [nextAction_atr s (active_of_place _ _ hplace).1, atrAction, fetch_eq_some hplace hdec]

theorem exec_response_sorts (pre : List Byte) (sw1 sw2 : Byte) (s : State) (hst : s.xe.state = .sending)
    (htx : s.xe.txPending = true) :
    exec (.response pre sw1 sw2) s = exec (decodeStatus sw1 sw2) (s.withXe (s.xe.takeResponse pre sw1 sw2)) :=
  (execResponse_waiting pre sw1 sw2 s ((waitsForAnswer_iff _).2 ⟨hst, htx⟩)).trans (exec_decodeStatus sw1 sw2 _).symm

/-- Settles O8, clause by clause: what brings the instruction picks the action, and the action runs what the decoder reads. -/
theorem stepRunsTheDecodedInstruction : Obligations.StepRunsTheDecodedInstruction := by
  refine ⟨step_fetched, ?_, ?_, step_waiting, step_continuation, step_character, ?_⟩
  · intro s r es i turn hdec
    cases hdec
    exact step_request s r es turn
  · intro s bs es i turn hst htx hdec
    cases hdec
    exact step_answer s bs es turn hst htx
  · intro s pre sw1 sw2 i hst htx hdec
    cases hdec
    exact exec_response_sorts pre sw1 sw2 s hst htx

end Sys2Proof.Machine
end

section
/-! PROOFS. What one character of a decode can do, said once (`tick_cases`), and what follows for a whole run: it is long enough
to come to its end, its check byte follows the protocol numbers, and bytes after the last character are never read. -/

namespace Sys2Proof.Machine

open Sys2Proof

/-! ### The place of a decode under way -/

/-- The step of rule R120 at which a character is consumed. -/
def phaseOf : Slot → AtrPhase
  | .ts => .ts
  | .t0 => .t0
  | .hb _ => .hist
  | .tck => .tck
  | _ => .group

theorem groupPlace_phaseOf {w : AtrWork} {slot : Slot} (h : w.groupPlace = some slot) : phaseOf slot = .group := by
  unfold AtrWork.groupPlace at h
  split at h
  · split at h <;> cases h <;> rfl
  · repeat' split at h
    all_goals cases h
    all_goals rfl

theorem phase_of_place {w : AtrWork} {slot : Slot} (h : w.place = some slot) : w.phase = phaseOf slot := by
  obtain ⟨-, -, h⟩ := (place_eq_some w slot).1 h
  unfold AtrWork.phasePlace at h
  cases hphase : w.phase with
  | group => rw [hphase] at h; exact (groupPlace_phaseOf h).symm
  | final => rw [hphase] at h; cases h
  | _ => rw [hphase] at h; cases h; rfl

theorem count_of_place {w : AtrWork} {k : Nat} (h : w.place = some (.hb k)) : k = w.k := by
  have hphase := phase_of_place h
  obtain ⟨-, -, h⟩ := (place_eq_some w _).1 h
  simp only [AtrWork.phasePlace, hphase, phaseOf] at h
  cases h
  rfl

/-- What a decode past the length check of rule R121 keeps: it is under way, TS and T0 are there and not read again, `K` is a
nibble, and a group is left only when its mask is used up (rules R121, R123, R129). -/
structure AtrWork.UnderWay (w : AtrWork) : Prop where
  active : w.active = true
  twoBytes : 2 ≤ w.raw.length
  cursor : 2 ≤ w.cur
  count : w.k ≤ 15
  bits : w.phase = .group → w.mask ≠ 0#4

theorem start_underWay {raw : List Byte} (h : 2 ≤ raw.length) : (AtrWork.start raw).UnderWay :=
  ⟨rfl, h, Nat.le_refl 2, Nat.zero_le 15, fun hp => by cases hp⟩

theorem phase_final_of_place_none {w : AtrWork} (hw : w.UnderWay) (he : w.error = none) (hp : w.place = none) :
    w.phase = .final := by
  simp only [AtrWork.place, hw.active, he, and_self, if_true] at hp
  unfold AtrWork.phasePlace at hp
  cases hphase : w.phase with
  | final => rfl
  | group => rw [hphase] at hp; exact absurd ((groupPlace_eq_none w).1 hp) (hw.bits hphase)
  | _ => rw [hphase] at hp; cases hp

/-! ### One character -/

/-- Where the bytes of a position begin. -/
def AtrWork.bytesFrom (w : AtrWork) : Slot → Nat
  | .ts => 0
  | .t0 => 1
  | _ => w.cur

/-- How many bytes a position of an ATR takes (rule R81). -/
def byteCount : Slot → Nat
  | .hb k => k
  | _ => 1

/-- How long the input must be for the check before a position to pass (rules R130 to R132). -/
def AtrWork.neededLength (w : AtrWork) : Slot → Nat
  | .ta1 | .ta | .tb | .tc | .td => w.cur + 1 + (w.k + w.tckNeed)
  | .hb k => w.cur + k
  | .tck => w.cur + 1
  | _ => 0

theorem bytesAt_eq (w : AtrWork) (slot : Slot) :
    w.bytesAt slot = (w.raw.drop (w.bytesFrom slot)).take (byteCount slot) := by
  cases slot <;> rfl

theorem shortfall_eq_none (w : AtrWork) (slot : Slot) :
    w.shortfall slot = none ↔ w.neededLength slot ≤ w.raw.length := by
  cases slot <;> simp [AtrWork.shortfall, AtrWork.neededLength, AtrWork.isTruncated]

theorem characterRow_of_decode {w : AtrWork} {slot : Slot} {bs : List Byte} {i : Instr} (here : w.place = some slot)
    (hdec : decode (.bytes slot bs) = .ok i) : CharacterRow i slot bs :=
  characterRow_of_encode (wellFormed_and_encode_of_decode hdec).2 (place_isCharacter w slot here)

section
variable {w : AtrWork} {slot : Slot} (hw : w.UnderWay) (here : w.place = some slot) (check : w.shortfall slot = none)
include hw here check

/-- Where the check before a position passes, its bytes are there. -/
theorem bytes_there : w.bytesFrom slot + byteCount slot ≤ w.raw.length := by
  have hlen := (shortfall_eq_none w slot).1 check
  have htwo := hw.twoBytes
  obtain ⟨hcmd, hget, hsw, hresp⟩ := place_isCharacter w slot here
  cases slot <;> simp_all [AtrWork.neededLength, AtrWork.bytesFrom, byteCount] <;> omega

/-- They are a row of the table. -/
theorem decode_bytesAt : ∃ i, decode (.bytes slot (w.bytesAt slot)) = .ok i := by
  have hlen : (w.bytesAt slot).length = byteCount slot := by
    have := bytes_there hw here check
    rw [bytesAt_eq, List.length_take, List.length_drop]
    omega
  obtain ⟨hcmd, hget, hsw, hresp⟩ := place_isCharacter w slot here
  generalize w.bytesAt slot = bs at hlen
  cases slot with
  | hb k =>
    have hk : k ≤ 15 := count_of_place here ▸ hw.count
    exact ⟨.atrHb bs, if_pos ⟨hlen, hk⟩⟩
  | commandFrame => exact absurd rfl hcmd
  | getResponseFrame => exact absurd rfl hget
  | statusWord => exact absurd rfl hsw
  | response => exact absurd rfl hresp
  | _ =>
    obtain ⟨b, rfl⟩ := List.length_eq_one_iff.1 hlen
    exact ⟨_, rfl⟩

/-- A character that is there is consumed as its row. -/
theorem tick_row (cfg : Config) : ∃ i, CharacterRow i slot (w.bytesAt slot) ∧ w.tick cfg = w.row cfg i := by
  obtain ⟨i, hi⟩ := decode_bytesAt hw here check
  exact ⟨i, characterRow_of_decode here hi, tick_fetched cfg w i (fetch_eq_some here hi)⟩

end

/-- Where the check before a character fails, its error is recorded, whether its bytes are there or not (rule R248). -/
theorem tick_checkFails (cfg : Config) {w : AtrWork} {slot : Slot} {r : Malformed} (here : w.place = some slot)
    (check : w.shortfall slot = some r) : w.tick cfg = w.fail r := by
  cases hf : w.fetch with
  | none => rw [tick_short cfg w hf]; simp [AtrWork.failShort, here, check]
  | some i =>
    have hdec : decode (.bytes slot (w.bytesAt slot)) = .ok i := by
      simp only [AtrWork.fetch, here, Option.bind_some] at hf
      cases hd : decode (.bytes slot (w.bytesAt slot)) <;> simp_all [Except.toOption]
    obtain ⟨write, hrow⟩ := (characterRow_of_decode here hdec).row_eq_consume cfg
    rw [tick_fetched cfg w i hf, hrow, consume_short w slot write r here check]

/-- What one character of a decode under way can do: the check before it fails, or the bytes of its position are recorded. -/
inductive AtrWork.Tick (cfg : Config) (w : AtrWork) : AtrWork → Prop
  | fail (slot : Slot) (r : Malformed) (here : w.place = some slot) (check : w.shortfall slot = some r) :
      Tick cfg w (w.fail r)
  | badTs (b : Byte) (here : w.place = some .ts) (char : w.bytesAt .ts = [b]) : Tick cfg w (w.fail .badTs)
  | tsDirect (here : w.place = some .ts) (char : w.bytesAt .ts = [0x3B#8]) :
      Tick cfg w { w with conv := .direct, phase := .t0 }
  | tsInverse (here : w.place = some .ts) (char : w.bytesAt .ts = [0x3F#8]) :
      Tick cfg w { w with conv := .inverse, phase := .t0 }
  | t0 (y k : Nibble) (here : w.place = some .t0) (char : w.bytesAt .t0 = [ofNibbles y k]) :
      Tick cfg w { w with t0 := ofNibbles y k, k := k.toNat, mask := y }.closeGroup
  | ta1 (fi di : Nibble) (here : w.place = some .ta1) (check : w.shortfall .ta1 = none)
      (char : w.bytesAt .ta1 = [ofNibbles fi di]) :
      Tick cfg w ({ w with group := { w.group with ta := some (ofNibbles fi di) }, fi := some (fiOf cfg fi),
                           di := some (diOf cfg di) }.advance (.ta w.idx) 0x1#4).closeGroup
  | ta (v : Byte) (here : w.place = some .ta) (check : w.shortfall .ta = none) (char : w.bytesAt .ta = [v]) :
      Tick cfg w ({ w with group := { w.group with ta := some v } }.advance (.ta w.idx) 0x1#4).closeGroup
  | tb (v : Byte) (here : w.place = some .tb) (check : w.shortfall .tb = none) (char : w.bytesAt .tb = [v]) :
      Tick cfg w ({ w with group := { w.group with tb := some v } }.advance (.tb w.idx) 0x2#4).closeGroup
  | tc (v : Byte) (here : w.place = some .tc) (check : w.shortfall .tc = none) (char : w.bytesAt .tc = [v]) :
      Tick cfg w ({ w with group := { w.group with tc := some v } }.advance (.tc w.idx) 0x4#4).closeGroup
  | td (y t : Nibble) (here : w.place = some .td) (check : w.shortfall .td = none)
      (char : w.bytesAt .td = [ofNibbles y t]) :
      Tick cfg w { w.advance (.td w.idx) 0x8#4 with
        groups := w.groups ++ [{ w.group with td := some (ofNibbles y t), protocol := some t }],
        group := AtrGroup.empty, anyNonT0 := w.nonT0After t, mask := y, idx := w.idx + 1 }.closeGroup
  | hb (vs : List Byte) (here : w.place = some (.hb vs.length)) (check : w.shortfall (.hb vs.length) = none)
      (char : w.bytesAt (.hb vs.length) = vs) :
      Tick cfg w { w with
        hist := vs, cur := w.cur + vs.length, order := if vs.isEmpty then w.order else w.order ++ [.hb],
        phase := if w.anyNonT0 then .tck else .final }
  | tck (c : Byte) (here : w.place = some .tck) (check : w.shortfall .tck = none) (char : w.bytesAt .tck = [c]) :
      Tick cfg w { w with tck := some c, cur := w.cur + 1, order := w.order ++ [.tck], phase := .final }

theorem tick_cases (cfg : Config) {w : AtrWork} {slot : Slot} (hw : w.UnderWay) (here : w.place = some slot) :
    w.Tick cfg (w.tick cfg) := by
  cases check : w.shortfall slot with
  | some r => exact tick_checkFails cfg here check ▸ .fail slot r here check
  | none =>
    obtain ⟨i, hrow, htick⟩ := tick_row hw here check cfg
    have written (write : AtrWork → AtrWork) : w.consume slot write = write w := consume_here w slot write here check
    rw [htick]
    generalize char : w.bytesAt slot = bs at hrow
    cases hrow with
    | tsDirect => simp only [AtrWork.row, AtrWork.charTs, written]; exact .tsDirect here char
    | tsInverse => simp only [AtrWork.row, AtrWork.charTs, written]; exact .tsInverse here char
    | tsIllegal b => simp only [AtrWork.row, AtrWork.charBadTs, written]; exact .badTs b here char
    | t0 y k => simp only [AtrWork.row, AtrWork.charT0, written]; exact .t0 y k here char
    | ta1 fi di => simp only [AtrWork.row, AtrWork.charTa1, written]; exact .ta1 fi di here check char
    | ta v => simp only [AtrWork.row, AtrWork.charTa, written]; exact .ta v here check char
    | tb v => simp only [AtrWork.row, AtrWork.charTb, written]; exact .tb v here check char
    | tc v => simp only [AtrWork.row, AtrWork.charTc, written]; exact .tc v here check char
    | td y t => simp only [AtrWork.row, AtrWork.charTd, written]; exact .td y t here check char
    | hb => simp only [AtrWork.row, AtrWork.charHb, written]; exact .hb bs here check char
    | tck c => simp only [AtrWork.row, AtrWork.charTck, written]; exact .tck c here check char

/-- An interface byte that passes the check of rule R130 stands before the end. -/
theorem cursor_lt_of_check {w : AtrWork} {slot : Slot} (hslot : phaseOf slot = .group) (here : w.place = some slot)
    (check : w.shortfall slot = none) : w.cur < w.raw.length := by
  have hlen := (shortfall_eq_none w slot).1 check
  obtain ⟨hcmd, hget, hsw, hresp⟩ := place_isCharacter w slot here
  cases slot <;> simp_all [phaseOf, AtrWork.neededLength] <;> omega

/-! ### What the end of a group leaves -/

theorem closeGroup_phase (w : AtrWork) : w.closeGroup.phase = if w.mask = 0#4 then .hist else .group := by
  rw [closeGroup_eq]

theorem closeGroup_groups (w : AtrWork) :
    w.closeGroup.groups = if w.mask = 0#4 then w.groups ++ [w.group] else w.groups := by
  rw [closeGroup_eq]

@[simp] theorem closeGroup_group (w : AtrWork) : w.closeGroup.group = w.group := by rw [closeGroup_eq]

@[simp] theorem closeGroup_tck (w : AtrWork) : w.closeGroup.tck = w.tck := by rw [closeGroup_eq]

theorem closeGroup_phase_cases (w : AtrWork) : w.closeGroup.phase = .hist ∨ w.closeGroup.phase = .group := by
  rw [closeGroup_phase]
  split <;> simp

theorem closeGroup_underWay {w : AtrWork} (active : w.active = true) (twoBytes : 2 ≤ w.raw.length) (cursor : 2 ≤ w.cur)
    (count : w.k ≤ 15) : w.closeGroup.UnderWay where
  active := by simpa
  twoBytes := by simpa
  cursor := by simpa
  count := by simpa
  bits h := by simpa [closeGroup_phase] using h

/-! ### Runs of a decode under way -/

variable {cfg : Config}

theorem AtrWork.Tick.raw_eq {w v : AtrWork} (h : w.Tick cfg v) : v.raw = w.raw := by
  cases h <;> simp

theorem AtrWork.Tick.underWay {w v : AtrWork} (h : w.Tick cfg v) (hw : w.UnderWay) : v.UnderWay := by
  obtain ⟨active, twoBytes, cursor, count, bits⟩ := hw
  have hcur : 2 ≤ w.cur + 1 := Nat.le_succ_of_le cursor
  cases h with
  | fail | badTs => exact ⟨active, twoBytes, cursor, count, bits⟩
  | tsDirect | tsInverse => exact ⟨active, twoBytes, cursor, count, fun h => by cases h⟩
  | t0 y k => exact closeGroup_underWay active twoBytes cursor (Nat.le_of_lt_succ k.isLt)
  | ta1 | ta | tb | tc | td => exact closeGroup_underWay active twoBytes hcur count
  | hb vs =>
    refine ⟨active, twoBytes, Nat.le_add_right_of_le cursor, count, fun h => ?_⟩
    cases hn : w.anyNonT0 <;> simp [hn] at h
  | tck => exact ⟨active, twoBytes, hcur, count, fun h => by cases h⟩

/-- What every character of a decode under way keeps holds after a run. -/
theorem run_induction {P : AtrWork → Prop} (keeps : ∀ w v, w.UnderWay → P w → w.Tick cfg v → P v) (n : Nat)
    (w : AtrWork) (hw : w.UnderWay) (h : P w) : P (AtrWork.run cfg n w) ∧ (AtrWork.run cfg n w).UnderWay := by
  induction n generalizing w with
  | zero => exact ⟨h, hw⟩
  | succ n ih =>
    cases hp : w.place with
    | none => rw [run_done cfg _ w hp]; exact ⟨h, hw⟩
    | some slot =>
      have ht := tick_cases cfg hw hp
      rw [run_next cfg n w (by simp [hp])]
      exact ih _ (ht.underWay hw) (keeps _ _ hw h ht)

/-! ### A run comes to its end -/

/-- A bound on the characters still to come (rule R120). -/
def AtrWork.remaining (w : AtrWork) : Nat :=
  match w.phase with
  | .ts => w.raw.length + 2
  | .t0 => w.raw.length + 1
  | .group => w.raw.length - w.cur + 2
  | .hist => 2
  | .tck => 1
  | .final => 0

theorem remaining_closeGroup_le (w : AtrWork) : w.closeGroup.remaining ≤ w.raw.length - w.cur + 2 := by
  obtain h | h := closeGroup_phase_cases w <;> simp [AtrWork.remaining, h]

theorem AtrWork.Tick.remaining_lt {w v : AtrWork} (h : w.Tick cfg v) (hw : w.UnderWay) :
    v.error ≠ none ∨ v.remaining < w.remaining := by
  have interfaceByte {slot : Slot} (hslot : phaseOf slot = .group) (here : w.place = some slot)
      (check : w.shortfall slot = none) (u : AtrWork) (hraw : u.raw = w.raw) (hcur : u.cur = w.cur + 1) :
      u.closeGroup.remaining < w.remaining := by
    have hle := remaining_closeGroup_le u
    have hlt := cursor_lt_of_check hslot here check
    rw [hraw, hcur] at hle
    simp only [AtrWork.remaining, phase_of_place here, hslot] at hle ⊢
    omega
  cases h with
  | fail | badTs => exact .inl (by simp)
  | tsDirect here | tsInverse here =>
    right
    simp [AtrWork.remaining, phase_of_place here, phaseOf]
  | t0 y k here =>
    right
    refine Nat.lt_of_le_of_lt (remaining_closeGroup_le _) ?_
    have htwo := hw.twoBytes
    have hcur := hw.cursor
    simp only [AtrWork.remaining, phase_of_place here, phaseOf]
    omega
  | ta1 _ _ here check => exact .inr (interfaceByte rfl here check _ rfl rfl)
  | ta _ here check | tb _ here check | tc _ here check => exact .inr (interfaceByte rfl here check _ rfl rfl)
  | td _ _ here check => exact .inr (interfaceByte rfl here check _ rfl rfl)
  | hb vs here =>
    right
    simp only [AtrWork.remaining, phase_of_place here, phaseOf]
    cases w.anyNonT0 <;> simp
  | tck c here =>
    right
    simp [AtrWork.remaining, phase_of_place here, phaseOf]

theorem place_of_remaining_zero {w : AtrWork} (h : w.remaining = 0) : w.place = none := by
  have hphase : w.phase = .final := by
    cases hphase : w.phase with
    | final => rfl
    | _ => simp [AtrWork.remaining, hphase] at h
  simp [AtrWork.place, AtrWork.phasePlace, hphase]

theorem run_place {w : AtrWork} (n : Nat) (hw : w.UnderWay) (hn : w.remaining ≤ n) :
    (AtrWork.run cfg n w).place = none := by
  induction n generalizing w with
  | zero => exact place_of_remaining_zero (Nat.le_zero.1 hn)
  | succ n ih =>
    cases hp : w.place with
    | none => rw [run_done cfg _ w hp, hp]
    | some slot =>
      have ht := tick_cases cfg hw hp
      rw [run_next cfg n w (by simp [hp])]
      obtain he | hlt := ht.remaining_lt hw
      · obtain ⟨r, hr⟩ := Option.ne_none_iff_exists'.1 he
        have hnone := place_of_error _ r hr
        rw [run_done cfg _ _ hnone, hnone]
      · exact ih (ht.underWay hw) (by omega)

/-- The working variables of DECODE_ATR on `raw` at its end (rule R120). -/
def atrEnd (cfg : Config) (raw : List Byte) : AtrWork := AtrWork.run cfg (raw.length + 2) (AtrWork.start raw)

theorem runAtr_eq (raw : List Byte) : runAtr cfg raw = (atrEnd cfg raw).result := rfl

theorem two_le_of_runAtr_ok {raw : List Byte} {r : AtrRecord} (h : runAtr cfg raw = .ok r) : 2 ≤ raw.length := by
  by_contra hlt
  rw [runAtr_short cfg raw (by omega)] at h
  cases h

theorem atrEnd_place {raw : List Byte} (h : 2 ≤ raw.length) : (atrEnd cfg raw).place = none :=
  run_place _ (start_underWay h) (Nat.le_refl _)

/-- What holds at the start and is kept by every character holds at the end of a decode. -/
theorem atrEnd_induction {P : AtrWork → Prop} {raw : List Byte} (h : 2 ≤ raw.length) (first : P (AtrWork.start raw))
    (keeps : ∀ w v, w.UnderWay → P w → w.Tick cfg v → P v) : P (atrEnd cfg raw) ∧ (atrEnd cfg raw).UnderWay :=
  run_induction keeps _ _ (start_underWay h) first

theorem atrEnd_raw {raw : List Byte} (h : 2 ≤ raw.length) : (atrEnd cfg raw).raw = raw :=
  (atrEnd_induction (P := fun w => w.raw = raw) h rfl fun _ _ _ hw ht => ht.raw_eq.trans hw).1

/-- A record is built at the end of step 6 or 5, with the whole input read (rules R134, R140). -/
theorem atrEnd_phase {raw : List Byte} {r : AtrRecord} (h : runAtr cfg raw = .ok r) : (atrEnd cfg raw).phase = .final := by
  have htwo := two_le_of_runAtr_ok h
  have hw := (atrEnd_induction (P := fun _ => True) (cfg := cfg) htwo trivial fun _ _ _ _ _ => trivial).2
  exact phase_final_of_place_none hw (result_ok _ r h).1 (atrEnd_place htwo)

/-! ### The check byte -/

/-- The recorded protocol number of a group is not 0 (rule R104). -/
def AtrGroup.nonT0 (g : AtrGroup) : Prop := ∃ t, g.protocol = some t ∧ t ≠ 0#4

/-- Between characters: `anyNonT0` speaks of the recorded groups, the current group has no protocol number yet, and a check byte is
awaited or recorded only where `anyNonT0` asks for it (rules R128, R132). -/
structure AtrWork.ProtocolsOk (w : AtrWork) : Prop where
  recorded : w.anyNonT0 = true ↔ ∃ g ∈ w.groups, g.nonT0
  current : w.group.protocol = none
  asked : w.phase = .tck → w.anyNonT0 = true
  checked : w.tck ≠ none ↔ w.phase = .final ∧ w.anyNonT0 = true

theorem closeGroup_protocolsOk {w : AtrWork} (recorded : w.anyNonT0 = true ↔ ∃ g ∈ w.groups, g.nonT0)
    (current : w.group.protocol = none) (unchecked : w.tck = none) : w.closeGroup.ProtocolsOk where
  recorded := by
    rw [AtrWork.closeGroup_anyNonT0, closeGroup_groups, recorded]
    split <;> simp [or_and_right, exists_or, AtrGroup.nonT0, current]
  current := by simpa
  asked h := by obtain hp | hp := closeGroup_phase_cases w <;> cases hp.symm.trans h
  checked := by obtain hp | hp := closeGroup_phase_cases w <;> simp [hp, unchecked]

theorem start_protocolsOk (raw : List Byte) : (AtrWork.start raw).ProtocolsOk :=
  ⟨by simp [AtrWork.start, AtrWork.idle], rfl, fun h => (nomatch h), by simp [AtrWork.start, AtrWork.idle]⟩

theorem AtrWork.Tick.protocolsOk {w v : AtrWork} (h : w.Tick cfg v) (hw : w.ProtocolsOk) : v.ProtocolsOk := by
  obtain ⟨recorded, current, asked, checked⟩ := hw
  have unchecked {slot : Slot} (here : w.place = some slot) (hslot : phaseOf slot ≠ .final) : w.tck = none := by
    by_contra hc
    exact hslot ((phase_of_place here).symm.trans (checked.1 hc).1)
  cases h with
  | fail | badTs => exact ⟨recorded, current, asked, checked⟩
  | tsDirect here | tsInverse here =>
    have htck := unchecked here (by decide)
    exact ⟨recorded, current, fun h => (nomatch h), by simp [htck]⟩
  | t0 y k here => exact closeGroup_protocolsOk recorded current (unchecked here (by decide))
  | ta1 _ _ here => exact closeGroup_protocolsOk recorded current (unchecked here (by decide))
  | ta _ here | tb _ here | tc _ here => exact closeGroup_protocolsOk recorded current (unchecked here (by decide))
  | td y t here =>
    refine closeGroup_protocolsOk ?_ rfl (unchecked here (by decide))
    simp [AtrWork.nonT0After, recorded, or_and_right, exists_or, AtrGroup.nonT0]
  | hb vs here =>
    have htck := unchecked here (by simp [phaseOf])
    refine ⟨recorded, current, fun h => ?_, ?_⟩
    · by_contra hn
      simp [hn] at h
    · cases hn : w.anyNonT0 <;> simp [htck]
  | tck c here =>
    have hn := asked (phase_of_place here)
    exact ⟨recorded, current, fun _ => hn, by simp [hn]⟩

/-- Settles O17, by the invariant `ProtocolsOk` at the end of the decode. -/
theorem checkByteFollowsTheProtocols : Obligations.CheckByteFollowsTheProtocols := by
  intro cfg raw r h
  have hok := (atrEnd_induction (cfg := cfg) (two_le_of_runAtr_ok h) (start_protocolsOk raw)
    fun _ _ _ hw ht => ht.protocolsOk hw).1
  have hphase := atrEnd_phase h
  obtain ⟨-, -, rfl⟩ := result_ok _ r h
  exact hok.checked.trans ((and_iff_right hphase).trans hok.recorded)

/-! ### Bytes after the last character -/

/-- The same decode with more bytes after its input. -/
def AtrWork.extend (w : AtrWork) (extra : List Byte) : AtrWork := { w with raw := w.raw ++ extra }

section
variable (extra : List Byte)

theorem extend_closeGroup (w : AtrWork) : w.closeGroup.extend extra = (w.extend extra).closeGroup := by
  rw [closeGroup_eq, closeGroup_eq]
  rfl

theorem shortfall_extend {w : AtrWork} {slot : Slot} (check : w.shortfall slot = none) :
    (w.extend extra).shortfall slot = none := by
  rw [shortfall_eq_none] at check ⊢
  calc (w.extend extra).neededLength slot = w.neededLength slot := by cases slot <;> rfl
    _ ≤ w.raw.length := check
    _ ≤ (w.raw ++ extra).length := by simp

theorem bytesAt_extend {w : AtrWork} {slot : Slot} (hw : w.UnderWay) (here : w.place = some slot)
    (check : w.shortfall slot = none) : (w.extend extra).bytesAt slot = w.bytesAt slot := by
  have hlen := bytes_there hw here check
  have hfrom : (w.extend extra).bytesFrom slot = w.bytesFrom slot := by cases slot <;> rfl
  rw [bytesAt_eq, bytesAt_eq, hfrom]
  show ((w.raw ++ extra).drop _).take _ = _
  rw [List.drop_append_of_le_length (by omega), List.take_append_of_le_length (by rw [List.length_drop]; omega)]

theorem consume_extend {w : AtrWork} {slot : Slot} {write : AtrWork → AtrWork} (here : w.place = some slot)
    (check : w.shortfall slot = none) (hwrite : write (w.extend extra) = (write w).extend extra) :
    (w.extend extra).consume slot write = (w.consume slot write).extend extra := by
  rw [consume_here w slot write here check, consume_here (w.extend extra) slot write here (shortfall_extend extra check),
    hwrite]

/-- No row looks at the bytes after its own. -/
theorem CharacterRow.row_extend {w : AtrWork} {slot : Slot} {i : Instr} {bs : List Byte} (h : CharacterRow i slot bs)
    (here : w.place = some slot) (check : w.shortfall slot = none) :
    (w.extend extra).row cfg i = (w.row cfg i).extend extra := by
  cases h with
  | tsDirect | tsInverse | tsIllegal | hb | tck =>
    simp only [AtrWork.row, AtrWork.charTs, AtrWork.charBadTs, AtrWork.charHb, AtrWork.charTck]
    exact consume_extend extra here check rfl
  | t0 | ta1 | ta | tb | tc | td =>
    simp only [AtrWork.row, AtrWork.charT0, AtrWork.charTa1, AtrWork.charTa, AtrWork.charTb, AtrWork.charTc,
      AtrWork.charTd]
    exact consume_extend extra here check (by rw [extend_closeGroup]; rfl)

theorem tick_extend {w : AtrWork} {slot : Slot} (hw : w.UnderWay) (here : w.place = some slot)
    (ok : (w.tick cfg).error = none) : (w.extend extra).tick cfg = (w.tick cfg).extend extra := by
  cases check : w.shortfall slot with
  | some r => rw [tick_checkFails cfg here check] at ok; cases ok
  | none =>
    obtain ⟨i, hi⟩ := decode_bytesAt hw here check
    have here' : (w.extend extra).place = some slot := here
    have hi' : decode (.bytes slot ((w.extend extra).bytesAt slot)) = .ok i := by
      rwa [bytesAt_extend extra hw here check]
    rw [tick_fetched cfg w i (fetch_eq_some here hi), tick_fetched cfg _ i (fetch_eq_some here' hi'),
      (characterRow_of_decode here hi).row_extend extra here check]

theorem run_extend (n : Nat) {w : AtrWork} (hw : w.UnderWay) (ok : (AtrWork.run cfg n w).error = none) :
    AtrWork.run cfg n (w.extend extra) = (AtrWork.run cfg n w).extend extra := by
  induction n generalizing w with
  | zero => rfl
  | succ n ih =>
    cases hp : w.place with
    | none => rw [run_done cfg _ w hp, run_done cfg _ (w.extend extra) hp]
    | some slot =>
      have hne : w.place ≠ none := by simp [hp]
      rw [run_next cfg n w hne] at ok ⊢
      have hok : (w.tick cfg).error = none := by
        by_contra he
        obtain ⟨r, hr⟩ := Option.ne_none_iff_exists'.1 he
        rw [run_done cfg _ _ (place_of_error _ r hr)] at ok
        exact he ok
      rw [run_next cfg n (w.extend extra) hne, tick_extend extra hw hp hok,
        ih ((tick_cases cfg hw hp).underWay hw) ok]

end

theorem start_append {raw : List Byte} (h : 2 ≤ raw.length) (extra : List Byte) :
    AtrWork.start (raw ++ extra) = (AtrWork.start raw).extend extra := by
  have hlong : ¬(raw ++ extra).length < 2 := by rw [List.length_append]; omega
  rw [AtrWork.start, AtrWork.start, if_neg hlong, if_neg (Nat.not_lt.2 h)]
  rfl

theorem atrEnd_append {raw : List Byte} {r : AtrRecord} (h : runAtr cfg raw = .ok r) (extra : List Byte) :
    atrEnd cfg (raw ++ extra) = (atrEnd cfg raw).extend extra := by
  have htwo := two_le_of_runAtr_ok h
  have hlen : (raw ++ extra).length + 2 = (raw.length + 2) + extra.length := by rw [List.length_append]; omega
  rw [atrEnd, start_append htwo, hlen, run_add, run_extend extra _ (start_underWay htwo) (result_ok _ r h).1]
  exact run_done cfg _ _ (atrEnd_place (cfg := cfg) htwo)

/-- The exact-length check fails when bytes are left (rule R134). -/
theorem result_of_cur_ne {w : AtrWork} (ok : w.error = none) (h : w.cur ≠ w.raw.length) :
    w.result = .error .trailingOrMissing := by
  simp [AtrWork.result, ok, h]

/-- Settles O20: the longer decode ends at the same cursor, before the end of its input. -/
theorem trailingBytesAreRefused : Obligations.TrailingBytesAreRefused := by
  intro cfg raw extra r h hne
  obtain ⟨herr, hcur, -⟩ := result_ok (atrEnd cfg raw) r h
  have hpos := List.length_pos_iff.2 hne
  have hleft : (atrEnd cfg raw).cur ≠ ((atrEnd cfg raw).raw ++ extra).length := by
    rw [List.length_append]
    omega
  rw [runAtr_eq, atrEnd_append h]
  exact result_of_cur_ne herr hleft

end Sys2Proof.Machine
end

section
/-! PROOFS. The rows of the ATR characters after T0, where each is awaited; the steps of a placed decode; and that no step stops
the block. -/

namespace Sys2Proof.Machine

open Sys2Proof

/-! ### The interface bytes, the historical bytes and the check byte -/

/-- A row whose character is awaited and fails its check records the error. -/
theorem exec_consume_short {s : State} {i : Instr} {slot : Slot} {write : AtrWork → AtrWork} {r : Malformed}
    (hexec : exec i s = .next (s.withAtrd (s.atrd.consume slot write))) (hplace : s.atrd.place = some slot)
    (hcheck : s.atrd.shortfall slot = some r) : exec i s = .next (s.withAtrd (s.atrd.fail r)) := by
  rw [hexec, consume_short _ _ _ _ hplace hcheck]

theorem isTruncated_eq_false_iff (w : AtrWork) :
    w.isTruncated = false ↔ w.cur + 1 + (w.k + if w.anyNonT0 then 1 else 0) ≤ w.raw.length := by
  rw [← Bool.not_eq_true, isTruncated_iff, gt_iff_lt, Nat.not_lt]

/-- The check of rule R130 comes before every interface byte. -/
theorem shortfall_interfaceByte (w : AtrWork) {slot : Slot} (hslot : slot ∈ [.ta1, .ta, .tb, .tc, .td]) :
    w.shortfall slot = if w.isTruncated then some .truncated else none := by
  simp only [List.mem_cons, List.not_mem_nil, or_false] at hslot
  obtain rfl | rfl | rfl | rfl | rfl := hslot <;> rfl

/-- Settles O23: the check passes, and the mask decides whether the group is closed. -/
theorem interfaceByteRowsComplete : Obligations.InterfaceByteRowsComplete := by
  intro s v fi di hlen
  have hcheck {slot : Slot} (hslot : slot ∈ [.ta1, .ta, .tb, .tc, .td]) : s.atrd.shortfall slot = none := by
    rw [shortfall_interfaceByte _ hslot, (isTruncated_eq_false_iff _).2 hlen]; rfl
  refine ⟨fun hplace => ?_, fun hplace => ?_, fun hplace => ?_, fun hplace => ?_⟩
  all_goals
    refine (exec_consume_here rfl hplace (hcheck (by simp))).trans ?_
    rw [closeGroup_eq]
    rfl

/-- Settles O24: the check passes; with an empty mask group `i + 1` is closed at once. -/
theorem tdRowCompletes : Obligations.TdRowCompletes := by
  intro s y t hplace hlen
  have hcheck : s.atrd.shortfall .td = none := by
    rw [shortfall_interfaceByte _ (by simp), (isTruncated_eq_false_iff _).2 hlen]; rfl
  refine (exec_consume_here rfl hplace hcheck).trans ?_
  rw [closeGroup_eq]
  by_cases hy : y = 0#4 <;> simp [hy, State.withAtrd, AtrWork.advance, AtrWork.nonT0After]

/-- Settles O26: the check of either row is that its bytes are there. -/
theorem historicalAndCheckByteRowsComplete : Obligations.HistoricalAndCheckByteRowsComplete := by
  refine ⟨fun s vs hplace => ⟨fun hlen => ?_, fun hlen => exec_consume_short rfl hplace (if_pos hlen)⟩,
    fun s c hplace => ⟨fun hlen => (exec_consume_here rfl hplace (if_neg (Nat.not_lt.2 hlen))).trans rfl,
      fun hlen => exec_consume_short rfl hplace (if_pos hlen)⟩⟩
  refine (exec_consume_here rfl hplace (if_neg (Nat.not_lt.2 hlen))).trans ?_
  simp [State.withAtrd]

/-! ### The steps of a placed decode -/

/-- A step of a decode under way is one character, its row or the error of its absence. -/
theorem step_tick {s : State} {slot : Slot} (hplace : s.atrd.place = some slot) :
    step s = .next (s.withAtrd (s.atrd.tick s.cfg)) := by
  have hact := nextAction_atr s (active_of_place _ _ hplace).1
  cases hf : s.atrd.fetch with
  | some i =>
    have hrun : nextAction s = .run i s := by simp [hact, atrAction, hf]
    rw [step_run s i s hrun, exec_fetched s i hf, tick_fetched _ _ _ hf]
  | none =>
    refine step_goTo s _ ?_
    simp [hact, atrAction, hf, hplace, tick_short]

/-- With nothing awaited the decode under way ends. -/
theorem step_finishAtr {s : State} (active : s.atrd.active = true) (hplace : s.atrd.place = none) :
    step s = .next s.finishAtr := by
  refine step_goTo s _ ?_
  simp [nextAction_atr s active, atrAction, AtrWork.fetch, hplace]

theorem core_run_succ {s t : State} (n : Nat) (h : step s = .next t) :
    core.run (n + 1) s = core.run n t := by
  have hcore : core.step s = .next t := h
  simp only [Host.Core.run, hcore]

/-- The steps of a decode under way are the characters of its run, and one step more delivers its result. -/
theorem core_run_decode (n : Nat) (s : State) (hw : s.atrd.UnderWay) (hend : (AtrWork.run s.cfg n s.atrd).place = none) :
    ∃ m, m ≤ n + 1 ∧
      core.run m s = .next (s.withAtrd (AtrWork.run s.cfg n s.atrd)).finishAtr := by
  have finished {n : Nat} {s : State} (hw : s.atrd.UnderWay) (hp : s.atrd.place = none) :
      core.run 1 s = .next (s.withAtrd (AtrWork.run s.cfg n s.atrd)).finishAtr := by
    rw [run_done _ _ _ hp, State.withAtrd_self]
    exact core_run_succ 0 (step_finishAtr hw.active hp)
  induction n generalizing s with
  | zero => exact ⟨1, Nat.le_refl _, finished hw hend⟩
  | succ n ih =>
    cases hp : s.atrd.place with
    | none => exact ⟨1, by omega, finished hw hp⟩
    | some slot =>
      rw [run_next _ _ _ (by simp [hp])] at hend ⊢
      obtain ⟨m, hm, hrun⟩ := ih (s.withAtrd (s.atrd.tick s.cfg)) ((tick_cases s.cfg hw hp).underWay hw) hend
      exact ⟨m + 1, by omega, (core_run_succ m (step_tick hp)).trans hrun⟩

/-- What DECODE_ATR leaves is what the end of a placed decode leaves. -/
theorem finishAtr_placed {s : State} (hidle : s.atrd = AtrWork.idle) (w : AtrWork) :
    (s.withAtrd w).finishAtr = s.deliver (.atr w.result) := by
  show (s.deliver (.atr w.result)).withAtrd AtrWork.idle = _
  rw [← hidle]
  exact State.withAtrd_self _

/-- Settles O11: fewer than two bytes end in the first step, and otherwise the steps are the characters of the run. -/
theorem characterRowsMakeUpTheDecode : Obligations.CharacterRowsMakeUpTheDecode := by
  intro raw s hidle
  have hexec : exec (.decodeAtr raw) s = .next ((s.placeAtr raw).withAtrd (atrEnd s.cfg raw)).finishAtr :=
    congrArg Host.Outcome.next (finishAtr_placed hidle _).symm
  rw [hexec]
  by_cases hshort : raw.length < 2
  · have hp : (s.placeAtr raw).atrd.place = none := place_of_error _ _ (start_short raw hshort)
    refine ⟨1, by omega, ?_⟩
    have hend : atrEnd s.cfg raw = AtrWork.start raw := run_done _ _ _ hp
    rw [hend]
    exact core_run_succ 0 (step_finishAtr rfl hp)
  · have htwo : 2 ≤ raw.length := Nat.not_lt.1 hshort
    exact core_run_decode _ (s.placeAtr raw) (start_underWay htwo) (atrEnd_place htwo)

/-! ### No step stops the block -/

theorem step_isNext_of_not_stop {s : State} (h : ∀ f, nextAction s ≠ .stop f) : ∃ t, step s = .next t := by
  cases hn : nextAction s with
  | run i s' => rw [step_run s i s' hn]; exact exec_isNext i s'
  | goTo s' => exact ⟨s', step_goTo s s' hn⟩
  | stop f => exact absurd hn (h f)

/-- XE's own step reads only registers that the invariant has set (rules R163, R167, R169, R251). -/
theorem xeAction_not_stop {s : State} (hx : s.xe.Ok s.cfg) (f : Fault) : xeAction s ≠ .stop f := by
  cases hs : s.xe.state with
  | idle => cases hp : s.pickWaiting <;> simp [xeAction, hs, hp]
  | sending =>
    obtain ⟨hsession, -⟩ := (Xe.ok_sending_iff hs).1 hx
    obtain ⟨session, hl⟩ := Option.isSome_iff_exists.1 hsession
    cases ht : s.xe.txPending <;> simp [xeAction, hs, ht, hl]
  | awaitingContinuation =>
    obtain ⟨-, -, -, -, -, l, hsw⟩ := (Xe.ok_awaiting_iff hs).1 hx
    simp [xeAction, hs, hsw]
  | done =>
    obtain ⟨-, -, -, -, -, hsw⟩ := (Xe.ok_done_iff hs).1 hx
    simp [xeAction, hs, hsw]
  | failed =>
    obtain ⟨-, -, e, he, -⟩ := (Xe.ok_failed_iff hs).1 hx
    simp [xeAction, hs, he]

theorem answerAction_not_stop (s : State) (n : Nat) (a : Answer) (f : Fault) : answerAction s n a ≠ .stop f := by
  cases a <;> simp only [answerAction] <;> split <;> simp

/-- Settles O51: an act of the outside never stops the block, and XE's own step does not under the invariant. -/
theorem blockNeverStops : Obligations.BlockNeverStops := by
  rintro s ⟨hatrd, hx, -⟩
  have hactive : s.atrd.active = false := by rw [hatrd]; rfl
  refine step_isNext_of_not_stop fun f => ?_
  cases he : s.events with
  | nil =>
    rw [nextAction_xe s [] ⟨hactive, .inl ⟨he, rfl⟩⟩]
    exact xeAction_not_stop (s := s.withEvents []) hx f
  | cons e es =>
    rw [nextAction_event s e es ⟨hactive, he⟩]
    cases e with
    | request r => simp [eventAction]
    | answer n a => exact answerAction_not_stop _ n a f
    | reset => simp [eventAction]
    | xe => exact xeAction_not_stop (s := s.withEvents es) hx f

end Sys2Proof.Machine
end

section
/-! PROOFS. Rule R120's pseudocode of DECODE_ATR by its parts: its checks, its loop and the record it builds. -/

namespace Sys2Proof.Machine

open Sys2Proof

variable {cfg : Config}

/-! ### The pseudocode by its parts -/

/-- The record that steps 5 to 8 build from what the loop of step 4 has left (rules R131 to R133, R135, R138, R140). -/
def atrRecord (cfg : Config) (raw : List Byte) (conv : Convention) (t0 : Byte) (k : Nat) (e : AtrLoopEnd) : AtrRecord :=
  { initialCharacter := conv, formatByte := t0, interfaceGroups := e.groups,
    historicalBytes := (raw.drop e.at_.cur).take k,
    checkByte := if e.anyNonT0 then some (raw.getD (e.at_.cur + k) 0x00#8) else none,
    fieldOrder := e.at_.order ++ (if 1 ≤ k then [.hb] else []) ++ (if e.anyNonT0 then [.tck] else []),
    fi := (e.groups.head?.bind fun g => g.ta).map fun a => fiOf cfg (hiNibble a),
    di := (e.groups.head?.bind fun g => g.ta).map fun a => diOf cfg (loNibble a) }

/-- Steps 5 to 8: their three checks have one error, and together they ask that the input ends exactly where the record does
(rules R131, R132, R134). -/
def afterLoop (cfg : Config) (raw : List Byte) (conv : Convention) (t0 : Byte) (k : Nat) (e : AtrLoopEnd) :
    Except Malformed AtrRecord :=
  if e.at_.cur + k + (if e.anyNonT0 then 1 else 0) = raw.length then .ok (atrRecord cfg raw conv t0 k e)
  else .error .trailingOrMissing

/-- Step 4 from its start, T0 being `t0` (rules R123, R124). -/
def groupsOf (raw : List Byte) (t0 : Byte) : Except Malformed AtrLoopEnd :=
  groupLoop raw (loNibble t0).toNat raw.length 1 (hiNibble t0) false [] { cur := 2, order := [.ts, .t0] }

theorem decodeAtr_short {raw : List Byte} (h : raw.length < 2) : decodeAtr cfg raw = .error .tooShort := by
  simp [decodeAtr, h, bind, Except.bind]

/-- The pseudocode on two bytes or more: TS, the loop of step 4, and the steps after it. -/
theorem decodeAtr_eq {raw : List Byte} (h : 2 ≤ raw.length) :
    decodeAtr cfg raw = (conventionOf (raw.getD 0 0x00#8)).bind fun conv =>
      (groupsOf raw (raw.getD 1 0x00#8)).bind
        (afterLoop cfg raw conv (raw.getD 1 0x00#8) (loNibble (raw.getD 1 0x00#8)).toNat) := by
  have hlen : ¬raw.length < 2 := Nat.not_lt.2 h
  unfold decodeAtr
  rw [if_neg hlen]
  refine congrArg (Except.bind _) (funext fun conv => ?_)
  refine congrArg (Except.bind _) (funext fun e => ?_)
  show _ = afterLoop cfg raw conv (raw.getD 1 0x00#8) _ e
  generalize (loNibble (raw.getD 1 0x00#8)).toNat = k
  have horder : (if 1 ≤ k then e.at_.order ++ [FieldId.hb] else e.at_.order)
      = e.at_.order ++ (if 1 ≤ k then [.hb] else []) := by split <;> simp
  by_cases hend : e.at_.cur + k + (if e.anyNonT0 then 1 else 0) = raw.length
  · have hhist : ¬e.at_.cur + k > raw.length := by omega
    cases hany : e.anyNonT0 <;> simp_all [afterLoop, atrRecord]
  · cases hany : e.anyNonT0 <;> simp_all [afterLoop, bind, Except.bind]

/-! ### The pseudocode from a place of the decode on -/

/-- Steps 7 and 8, with the factors read off group 1 (rules R134, R138, R140). -/
def AtrWork.fromEnd (cfg : Config) (w : AtrWork) : Except Malformed AtrRecord :=
  if w.cur = w.raw.length then
    .ok { initialCharacter := w.conv, formatByte := w.t0, interfaceGroups := w.groups, historicalBytes := w.hist,
          checkByte := w.tck, fieldOrder := w.order,
          fi := (w.groups.head?.bind fun g => g.ta).map fun a => fiOf cfg (hiNibble a),
          di := (w.groups.head?.bind fun g => g.ta).map fun a => diOf cfg (loNibble a) }
  else .error .trailingOrMissing

/-- From step 6 on, with a check byte required (rule R132). -/
def AtrWork.fromTck (cfg : Config) (w : AtrWork) : Except Malformed AtrRecord :=
  AtrWork.fromEnd cfg
    { w with tck := some (w.raw.getD w.cur 0x00#8), cur := w.cur + 1, order := w.order ++ [.tck] }

/-- From step 5 on (rule R131). -/
def AtrWork.fromHist (cfg : Config) (w : AtrWork) : Except Malformed AtrRecord :=
  afterLoop cfg w.raw w.conv w.t0 w.k
    { groups := w.groups, anyNonT0 := w.anyNonT0, at_ := { cur := w.cur, order := w.order } }

/-- The rest of step 4, with the bits of `mask` still to be served in group `idx`. -/
def AtrWork.restOfGroups (w : AtrWork) : Except Malformed AtrLoopEnd := do
  let (ta, c) ← consumeIf (w.mask.getLsbD 0) w.raw w.k w.anyNonT0 (.ta w.idx) { cur := w.cur, order := w.order }
  let (tb, c) ← consumeIf (w.mask.getLsbD 1) w.raw w.k w.anyNonT0 (.tb w.idx) c
  let (tc, c) ← consumeIf (w.mask.getLsbD 2) w.raw w.k w.anyNonT0 (.tc w.idx) c
  let g : AtrGroup := { w.group with ta := ta.or w.group.ta, tb := tb.or w.group.tb, tc := tc.or w.group.tc }
  if w.mask.getLsbD 3 then
    let (td, c) ← consumeByte w.raw w.k w.anyNonT0 (.td w.idx) c
    groupLoop w.raw w.k (w.raw.length - w.idx) (w.idx + 1) (hiNibble td) (w.anyNonT0 || loNibble td != 0#4)
      (w.groups ++ [{ g with td := some td, protocol := some (loNibble td) }]) c
  else .ok { groups := w.groups ++ [g], anyNonT0 := w.anyNonT0, at_ := c }

/-- From a place in step 4 on. -/
def AtrWork.fromGroups (cfg : Config) (w : AtrWork) : Except Malformed AtrRecord :=
  w.restOfGroups.bind (afterLoop cfg w.raw w.conv w.t0 w.k)

/-- From step 3 on (rule R123). -/
def AtrWork.fromT0 (cfg : Config) (w : AtrWork) : Except Malformed AtrRecord :=
  AtrWork.fromGroups cfg
    { w with t0 := w.raw.getD 1 0x00#8, k := (loNibble (w.raw.getD 1 0x00#8)).toNat,
             mask := hiNibble (w.raw.getD 1 0x00#8) }

/-- Rule R120's pseudocode, from the step reached on. -/
def AtrWork.fromPhase (cfg : Config) (w : AtrWork) : Except Malformed AtrRecord :=
  match w.phase with
  | .ts => (conventionOf (w.raw.getD 0 0x00#8)).bind fun conv => AtrWork.fromT0 cfg { w with conv := conv }
  | .t0 => w.fromT0 cfg
  | .group => w.fromGroups cfg
  | .hist => w.fromHist cfg
  | .tck => w.fromTck cfg
  | .final => w.fromEnd cfg

/-- Rule R120's pseudocode, taken up where the decode has come to: its error, once there is one (rule R248). -/
def AtrWork.resume (cfg : Config) (w : AtrWork) : Except Malformed AtrRecord :=
  match w.error with
  | some r => .error r
  | none => w.fromPhase cfg

theorem resume_of_error {w : AtrWork} {r : Malformed} (h : w.error = some r) : w.resume cfg = .error r := by
  simp [AtrWork.resume, h]

theorem resume_of_ok {w : AtrWork} (h : w.error = none) : w.resume cfg = w.fromPhase cfg := by
  simp [AtrWork.resume, h]

/-- At the head of an iteration the rest of step 4 is the loop of the pseudocode. -/
theorem restOfGroups_head {w : AtrWork} (hgroup : w.group = AtrGroup.empty) (hidx : w.idx ≤ w.raw.length) :
    w.restOfGroups = groupLoop w.raw w.k (w.raw.length + 1 - w.idx) w.idx w.mask w.anyNonT0 w.groups
      { cur := w.cur, order := w.order } := by
  rw [Nat.sub_add_comm hidx]
  simp only [AtrWork.restOfGroups, groupLoop, hgroup, AtrGroup.empty, Option.or_none]

theorem resume_start {raw : List Byte} (h : 2 ≤ raw.length) :
    (AtrWork.start raw).resume cfg = decodeAtr cfg raw := by
  have hok : (AtrWork.start raw).error = none := if_neg (Nat.not_lt.2 h)
  rw [decodeAtr_eq h, resume_of_ok hok]
  refine congrArg (Except.bind _) (funext fun conv => ?_)
  rw [AtrWork.fromT0, AtrWork.fromGroups, restOfGroups_head rfl (Nat.le_of_succ_le h)]
  rfl

/-- Where no bit is left, what follows is step 5 with the group recorded (rule R129). -/
theorem restOfGroups_maskZero {w : AtrWork} (h : w.mask = 0#4) :
    w.restOfGroups = .ok { groups := w.groups ++ [w.group], anyNonT0 := w.anyNonT0,
                           at_ := { cur := w.cur, order := w.order } } := by
  simp [AtrWork.restOfGroups, h, consumeIf, bind, Except.bind]

theorem resume_closeGroup {w : AtrWork} (ok : w.error = none) : w.closeGroup.resume cfg = w.fromGroups cfg := by
  rw [resume_of_ok (by simpa using ok), AtrWork.closeGroup]
  by_cases hmask : w.mask = 0#4
  · rw [if_pos hmask, AtrWork.fromGroups, restOfGroups_maskZero hmask]
    rfl
  · rw [if_neg hmask]
    rfl

/-! ### The bits of a group and the byte at the cursor -/

/-- The bits of the mask where an interface byte is awaited: its own is set, and those below are served; TA has two rows, by
the index of its group (rules R85 to R87, R124). -/
def AtrWork.BitsAt (w : AtrWork) : Slot → Prop
  | .ta1 => w.mask[0] = true ∧ w.idx = 1
  | .ta => w.mask[0] = true ∧ w.idx ≠ 1
  | .tb => w.mask[0] = false ∧ w.mask[1] = true
  | .tc => w.mask[0] = false ∧ w.mask[1] = false ∧ w.mask[2] = true
  | .td => w.mask[0] = false ∧ w.mask[1] = false ∧ w.mask[2] = false ∧ w.mask[3] = true
  | _ => False

theorem bitsAt_of_groupPlace {w : AtrWork} {slot : Slot} (h : w.groupPlace = some slot) : w.BitsAt slot := by
  unfold AtrWork.groupPlace at h
  split at h
  · split at h <;> cases h <;> simp_all [AtrWork.BitsAt]
  · repeat' split at h
    all_goals cases h
    all_goals simp_all [AtrWork.BitsAt]

/-- In step 4 the bits are those of the place, and the truncation check is the check before it. -/
theorem group_of_place {w : AtrWork} {slot : Slot} (here : w.place = some slot) (hslot : phaseOf slot = .group) :
    w.error = none ∧ w.phase = .group ∧ w.BitsAt slot ∧
      w.shortfall slot = if w.isTruncated then some .truncated else none := by
  have hphase := (phase_of_place here).trans hslot
  obtain ⟨-, ok, hplace⟩ := (place_eq_some w slot).1 here
  rw [AtrWork.phasePlace, hphase] at hplace
  have hbits := bitsAt_of_groupPlace hplace
  refine ⟨ok, hphase, hbits, ?_⟩
  cases slot with
  | ta1 | ta | tb | tc | td => rfl
  | _ => exact hbits.elim

/-- The byte a character has taken is the one the pseudocode reads at the cursor. -/
theorem getD_of_bytesAt {w : AtrWork} {slot : Slot} {v : Byte} (hone : byteCount slot = 1) (char : w.bytesAt slot = [v]) :
    w.raw.getD (w.bytesFrom slot) 0x00#8 = v := by
  rw [bytesAt_eq, hone] at char
  have hget : ((w.raw.drop (w.bytesFrom slot)).take 1)[0]? = some v := by rw [char]; rfl
  rw [List.getElem?_take_of_lt Nat.one_pos, List.getElem?_drop, Nat.add_zero] at hget
  rw [List.getD_eq_getElem?_getD, hget]
  rfl

/-- `consume` where the bytes after the cursor are enough (rule R130). -/
theorem consumeByte_of_fits {raw : List Byte} {k : Nat} {anyNonT0 : Bool} {c : AtrCursor}
    (h : c.cur + 1 + k + (if anyNonT0 then 1 else 0) ≤ raw.length) (name : FieldId) :
    consumeByte raw k anyNonT0 name c
      = .ok (raw.getD c.cur 0x00#8, { cur := c.cur + 1, order := c.order ++ [name] }) :=
  if_neg (Nat.not_lt.2 h)

/-- `consume` where they are not. -/
theorem consumeByte_of_not_fits {raw : List Byte} {k : Nat} {anyNonT0 : Bool} {c : AtrCursor}
    (h : ¬c.cur + 1 + k + (if anyNonT0 then 1 else 0) ≤ raw.length) (name : FieldId) :
    consumeByte raw k anyNonT0 name c = .error .truncated :=
  if_pos (Nat.not_le.1 h)

theorem consumeByte_ok {w : AtrWork} (h : w.isTruncated = false) (name : FieldId) :
    consumeByte w.raw w.k w.anyNonT0 name { cur := w.cur, order := w.order }
      = .ok (w.raw.getD w.cur 0x00#8, { cur := w.cur + 1, order := w.order ++ [name] }) :=
  consumeByte_of_fits (by simpa only [Nat.add_assoc] using (isTruncated_eq_false_iff w).1 h) name

theorem consumeByte_truncated {w : AtrWork} (h : w.isTruncated = true) (name : FieldId) :
    consumeByte w.raw w.k w.anyNonT0 name { cur := w.cur, order := w.order } = .error .truncated :=
  consumeByte_of_not_fits (by simpa only [Nat.add_assoc, Nat.not_le] using (isTruncated_iff w).1 h) name

/-! ### What a character leaves for the pseudocode to do -/

section
variable {w : AtrWork} (check : w.isTruncated = false)
include check

theorem restOfGroups_ta (bit : w.mask[0] = true) :
    ({ w with group := { w.group with ta := some (w.raw.getD w.cur 0x00#8) } }.advance
      (.ta w.idx) 0x1#4).restOfGroups = w.restOfGroups := by
  simp [AtrWork.restOfGroups, AtrWork.advance, consumeIf, bit, consumeByte_ok check, Except.map, bind, Except.bind]

theorem restOfGroups_tb (served : w.mask[0] = false) (bit : w.mask[1] = true) :
    ({ w with group := { w.group with tb := some (w.raw.getD w.cur 0x00#8) } }.advance
      (.tb w.idx) 0x2#4).restOfGroups = w.restOfGroups := by
  simp [AtrWork.restOfGroups, AtrWork.advance, consumeIf, served, bit, consumeByte_ok check, Except.map, bind, Except.bind]

theorem restOfGroups_tc (served : w.mask[0] = false ∧ w.mask[1] = false) (bit : w.mask[2] = true) :
    ({ w with group := { w.group with tc := some (w.raw.getD w.cur 0x00#8) } }.advance
      (.tc w.idx) 0x4#4).restOfGroups = w.restOfGroups := by
  simp [AtrWork.restOfGroups, AtrWork.advance, consumeIf, served, bit, consumeByte_ok check, Except.map, bind, Except.bind]

/-- `TD_i` ends the iteration (rule R128). -/
theorem restOfGroups_td (served : w.mask[0] = false ∧ w.mask[1] = false ∧ w.mask[2] = false) (bit : w.mask[3] = true) :
    w.restOfGroups = groupLoop w.raw w.k (w.raw.length - w.idx) (w.idx + 1) (hiNibble (w.raw.getD w.cur 0x00#8))
      (w.nonT0After (loNibble (w.raw.getD w.cur 0x00#8)))
      (w.groups ++ [{ w.group with td := some (w.raw.getD w.cur 0x00#8),
                                   protocol := some (loNibble (w.raw.getD w.cur 0x00#8)) }])
      { cur := w.cur + 1, order := w.order ++ [.td w.idx] } := by
  simp [AtrWork.restOfGroups, consumeIf, served, bit, consumeByte_ok check, bind, Except.bind, AtrWork.nonT0After]

end

theorem restOfGroups_truncated {w : AtrWork} {slot : Slot} (hbits : w.BitsAt slot) (check : w.isTruncated = true) :
    w.restOfGroups = .error .truncated := by
  cases slot with
  | ta1 | ta | tb | tc | td =>
    simp only [AtrWork.BitsAt] at hbits
    simp [AtrWork.restOfGroups, consumeIf, hbits, consumeByte_truncated check, Except.map, bind, Except.bind]
  | _ => exact hbits.elim

/-! ### No character changes what the pseudocode gives -/

theorem resume_of_group {w : AtrWork} (ok : w.error = none) (hphase : w.phase = .group) :
    w.resume cfg = w.fromGroups cfg := by
  rw [resume_of_ok ok, AtrWork.fromPhase, hphase]

/-- Where the check before a character fails, the pseudocode gives the same error (rules R130 to R132). -/
theorem resume_of_checkFails {w : AtrWork} {slot : Slot} {r : Malformed} (here : w.place = some slot)
    (check : w.shortfall slot = some r) : w.resume cfg = .error r := by
  have hphase := phase_of_place here
  obtain ⟨-, ok, -⟩ := (place_eq_some w slot).1 here
  cases slot with
  | ts | t0 => cases check
  | hb k =>
    have hk := count_of_place here
    simp only [AtrWork.shortfall] at check
    split at check <;> cases check
    next hlen =>
      rw [resume_of_ok ok, AtrWork.fromPhase, hphase]
      exact if_neg (by simp only; omega)
  | tck =>
    simp only [AtrWork.shortfall] at check
    split at check <;> cases check
    next hlen =>
      rw [resume_of_ok ok, AtrWork.fromPhase, hphase]
      exact if_neg (by simp only; omega)
  | _ =>
    obtain ⟨-, -, hbits, hcheck⟩ := group_of_place here rfl
    rw [check] at hcheck
    split at hcheck <;> cases hcheck
    next htrunc =>
      rw [resume_of_group ok hphase, AtrWork.fromGroups, restOfGroups_truncated hbits htrunc]
      rfl

/-- An interface byte that leaves the rest of step 4 the same. -/
theorem resume_interfaceByte {w u : AtrWork} {slot : Slot} (here : w.place = some slot) (hslot : phaseOf slot = .group)
    (herror : u.error = w.error) (hraw : u.raw = w.raw) (hconv : u.conv = w.conv) (ht0 : u.t0 = w.t0) (hk : u.k = w.k)
    (hrest : u.restOfGroups = w.restOfGroups) : u.closeGroup.resume cfg = w.resume cfg := by
  obtain ⟨ok, hphase, -⟩ := group_of_place here hslot
  rw [resume_closeGroup (herror.trans ok), resume_of_group ok hphase, AtrWork.fromGroups, AtrWork.fromGroups, hrest, hraw,
    hconv, ht0, hk]

/-- What is left of the pseudocode after a character gives what was left before it: the character is its next consumption. -/
theorem AtrWork.Tick.resume_eq {w v : AtrWork} (h : w.Tick cfg v) (pastTs : w.phase ≠ .ts)
    (unchecked : w.phase = .hist → w.tck = none) (hidx : w.idx + 1 ≤ w.cur) : v.resume cfg = w.resume cfg := by
  have passes {slot : Slot} (here : w.place = some slot) (hslot : phaseOf slot = .group)
      (check : w.shortfall slot = none) : w.isTruncated = false ∧ w.BitsAt slot := by
    obtain ⟨-, -, hbits, hcheck⟩ := group_of_place here hslot
    rw [check] at hcheck
    refine ⟨?_, hbits⟩
    by_contra ht
    simp [ht] at hcheck
  cases h with
  | fail slot r here check => rw [resume_of_error rfl, resume_of_checkFails here check]
  | badTs b here | tsDirect here | tsInverse here => exact absurd (phase_of_place here) pastTs
  | t0 y k here char =>
    obtain ⟨-, ok, -⟩ := (place_eq_some w _).1 here
    have hbyte : w.raw.getD 1 0x00#8 = ofNibbles y k := getD_of_bytesAt rfl char
    rw [resume_closeGroup (by exact ok), resume_of_ok ok, AtrWork.fromPhase, phase_of_place here]
    simp only [phaseOf, AtrWork.fromT0, hbyte, hiNibble_ofNibbles, loNibble_ofNibbles]
    rfl
  | ta1 fi di here check char =>
    obtain ⟨htrunc, hbit, -⟩ := passes here rfl check
    refine resume_interfaceByte here rfl rfl rfl rfl rfl rfl ?_
    rw [← getD_of_bytesAt rfl char]
    exact restOfGroups_ta htrunc hbit
  | ta v here check char =>
    obtain ⟨htrunc, hbit, -⟩ := passes here rfl check
    refine resume_interfaceByte here rfl rfl rfl rfl rfl rfl ?_
    rw [← getD_of_bytesAt rfl char]
    exact restOfGroups_ta htrunc hbit
  | tb v here check char =>
    obtain ⟨htrunc, served, hbit⟩ := passes here rfl check
    refine resume_interfaceByte here rfl rfl rfl rfl rfl rfl ?_
    rw [← getD_of_bytesAt rfl char]
    exact restOfGroups_tb htrunc served hbit
  | tc v here check char =>
    obtain ⟨htrunc, served0, served1, hbit⟩ := passes here rfl check
    refine resume_interfaceByte here rfl rfl rfl rfl rfl rfl ?_
    rw [← getD_of_bytesAt rfl char]
    exact restOfGroups_tc htrunc ⟨served0, served1⟩ hbit
  | td y t here check char =>
    obtain ⟨htrunc, served0, served1, served2, hbit⟩ := passes here rfl check
    have hcur := cursor_lt_of_check rfl here check
    have hbyte : w.raw.getD w.cur 0x00#8 = ofNibbles y t := getD_of_bytesAt rfl char
    refine resume_interfaceByte here rfl rfl rfl rfl rfl rfl ?_
    have hidx' : w.idx + 1 ≤ w.raw.length := by omega
    rw [restOfGroups_td htrunc ⟨served0, served1, served2⟩ hbit, hbyte, restOfGroups_head rfl hidx']
    simp [Nat.add_sub_add_right]
  | hb vs here check char =>
    have hphase := phase_of_place here
    obtain ⟨-, ok, -⟩ := (place_eq_some w _).1 here
    have hk : vs.length = w.k := count_of_place here
    have hhist : (w.raw.drop w.cur).take w.k = vs := hk ▸ char
    have horder : (if vs.isEmpty then w.order else w.order ++ [.hb])
        = w.order ++ if 1 ≤ w.k then [FieldId.hb] else [] := by
      rw [← hk]
      cases vs <;> simp
    rw [resume_of_ok (by exact ok), resume_of_ok ok, AtrWork.fromPhase, AtrWork.fromPhase, hphase]
    simp only [phaseOf, AtrWork.fromHist, afterLoop, atrRecord, hhist, horder, hk]
    cases hany : w.anyNonT0 with
    | true => simp [AtrWork.fromTck, AtrWork.fromEnd]
    | false => simp [AtrWork.fromEnd, unchecked hphase]

  | tck c here check char =>
    have hphase := phase_of_place here
    obtain ⟨-, ok, -⟩ := (place_eq_some w _).1 here
    rw [resume_of_ok (by exact ok), resume_of_ok ok, AtrWork.fromPhase, AtrWork.fromPhase, hphase]
    have hbyte : w.raw.getD w.cur 0x00#8 = c := getD_of_bytesAt rfl char
    simp only [phaseOf, AtrWork.fromTck, hbyte]
    rfl

/-! ### The factors of TA1 -/

/-- The TA of group 1, recorded or current. -/
def AtrWork.firstTa (w : AtrWork) : Option Byte := (w.groups ++ [w.group]).head?.bind fun g => g.ta

/-- A group is current: the steps before step 5. -/
def AtrPhase.beforeHist : AtrPhase → Bool
  | .ts | .t0 | .group => true
  | .hist | .tck | .final => false

/-- Between characters: the factors are those of group 1's TA, and the group index counts the groups (rules R124, R138). -/
structure AtrWork.FactorsOk (cfg : Config) (w : AtrWork) : Prop where
  fi : w.fi = w.firstTa.map fun a => fiOf cfg (hiNibble a)
  di : w.di = w.firstTa.map fun a => diOf cfg (loNibble a)
  count : w.groups.length + (if w.phase.beforeHist then 1 else 0) = w.idx
  first : 1 ≤ w.idx

theorem start_factorsOk (raw : List Byte) : (AtrWork.start raw).FactorsOk cfg := ⟨rfl, rfl, rfl, Nat.le_refl 1⟩

theorem closeGroup_firstTa (w : AtrWork) : w.closeGroup.firstTa = w.firstTa := by
  unfold AtrWork.firstTa
  rw [closeGroup_groups, closeGroup_group]
  split <;> simp [List.head?_append]

theorem closeGroup_factorsOk {w : AtrWork} (fi : w.fi = w.firstTa.map fun a => fiOf cfg (hiNibble a))
    (di : w.di = w.firstTa.map fun a => diOf cfg (loNibble a)) (count : w.groups.length + 1 = w.idx) :
    w.closeGroup.FactorsOk cfg where
  fi := by rw [closeGroup_firstTa, ← fi, closeGroup_eq]
  di := by rw [closeGroup_firstTa, ← di, closeGroup_eq]
  count := by
    rw [closeGroup_groups, closeGroup_phase, AtrWork.closeGroup_idx]
    split <;> simp [AtrPhase.beforeHist, count]
  first := by rw [AtrWork.closeGroup_idx]; omega

theorem AtrWork.Tick.factorsOk {w v : AtrWork} (h : w.Tick cfg v) (hw : w.FactorsOk cfg) : v.FactorsOk cfg := by
  obtain ⟨fi, di, count, first⟩ := hw
  have current {slot : Slot} (here : w.place = some slot) (hslot : (phaseOf slot).beforeHist = true) :
      w.groups.length + 1 = w.idx := by
    rw [phase_of_place here, if_pos hslot] at count
    exact count
  have ended {slot : Slot} (here : w.place = some slot) (hslot : (phaseOf slot).beforeHist = false) :
      w.groups.length = w.idx := by
    rw [phase_of_place here, hslot] at count
    exact count
  have kept {u : AtrWork} (hfi : u.fi = w.fi) (hdi : u.di = w.di) (hta : u.firstTa = w.firstTa)
      (hcount : u.groups.length + 1 = u.idx) : u.closeGroup.FactorsOk cfg :=
    closeGroup_factorsOk (by rw [hfi, fi, hta]) (by rw [hdi, di, hta]) hcount
  cases h with
  | fail | badTs => exact ⟨fi, di, count, first⟩
  | tsDirect here | tsInverse here => exact ⟨fi, di, current here rfl, first⟩
  | t0 y k here => exact kept rfl rfl rfl (current here rfl)
  | ta1 f d here =>
    have hcount := current here rfl
    obtain ⟨-, -, ⟨-, hone⟩, -⟩ := group_of_place here rfl
    have hnil : w.groups = [] := List.length_eq_zero_iff.1 (by omega)
    refine closeGroup_factorsOk ?_ ?_ hcount <;> simp [AtrWork.firstTa, AtrWork.advance, hnil]
  | ta v here =>
    have hcount := current here rfl
    obtain ⟨-, -, ⟨-, hone⟩, -⟩ := group_of_place here rfl
    obtain ⟨g, gs, hg⟩ : ∃ g gs, w.groups = g :: gs :=
      List.exists_cons_of_ne_nil fun h => hone (by rw [← hcount, h]; rfl)
    exact kept rfl rfl (by simp [AtrWork.firstTa, hg]) hcount
  | tb v here | tc v here =>
    refine kept rfl rfl ?_ (current here rfl)
    cases hg : w.groups <;> simp [AtrWork.firstTa, hg]
  | td y t here =>
    refine kept rfl rfl ?_ (by simp [current here rfl])
    cases hg : w.groups <;> simp [AtrWork.firstTa, hg]
  | hb vs here =>
    refine ⟨fi, di, ?_, first⟩
    cases hany : w.anyNonT0 <;> exact ended here rfl
  | tck c here => exact ⟨fi, di, ended here rfl, first⟩

/-- At the end of a decode group 1 is recorded. -/
theorem firstTa_of_final {w : AtrWork} (hw : w.FactorsOk cfg) (hphase : w.phase = .final) :
    w.firstTa = w.groups.head?.bind fun g => g.ta := by
  obtain ⟨-, -, count, first⟩ := hw
  have hlen : w.groups.length = w.idx := by rw [hphase] at count; exact count
  cases hg : w.groups with
  | nil => rw [hg] at hlen; exact absurd first (by rw [← hlen]; decide)
  | cons g gs => rw [AtrWork.firstTa, hg]; rfl

/-! ### DECODE_ATR gives what the pseudocode gives -/

/-- The first character by its value (rule R122). -/
theorem tick_start {raw : List Byte} (h : 2 ≤ raw.length) :
    (AtrWork.start raw).tick cfg =
      match conventionOf (raw.getD 0 0x00#8) with
      | .error r => (AtrWork.start raw).fail r
      | .ok conv => { AtrWork.start raw with conv := conv, phase := .t0 } := by
  have here := start_place raw h
  obtain ⟨b, rest, rfl⟩ : ∃ b rest, raw = b :: rest := List.exists_cons_of_length_pos (by omega)
  rw [tick_fetched cfg _ (decodeTs b) (fetch_eq_some here rfl), List.getD_cons_zero]
  unfold decodeTs conventionOf
  split
  · exact consume_here _ .ts (fun w => { w with conv := .direct, phase := .t0 }) here rfl
  · split
    · exact consume_here _ .ts (fun w => { w with conv := .inverse, phase := .t0 }) here rfl
    · exact consume_here _ .ts (fun w => w.fail .badTs) here rfl

/-- Between the characters after TS: what the induction over a decode needs beside `AtrWork.ProtocolsOk`. -/
structure AtrWork.PastTs (w : AtrWork) : Prop where
  pastTs : w.phase ≠ .ts
  index : w.idx + 1 ≤ w.cur

theorem closeGroup_pastTs {w : AtrWork} (index : w.idx + 1 ≤ w.cur) : w.closeGroup.PastTs where
  pastTs h := by obtain hp | hp := closeGroup_phase_cases w <;> cases hp.symm.trans h
  index := by simpa using index

theorem AtrWork.Tick.pastTs {w v : AtrWork} (h : w.Tick cfg v) (hw : w.PastTs) : v.PastTs := by
  obtain ⟨pastTs, index⟩ := hw
  have hcur : w.idx + 1 ≤ w.cur + 1 := Nat.le_succ_of_le index
  cases h with
  | fail | badTs => exact ⟨pastTs, index⟩
  | tsDirect here | tsInverse here => exact absurd (phase_of_place here) pastTs
  | t0 => exact closeGroup_pastTs index
  | ta1 | ta | tb | tc => exact closeGroup_pastTs hcur
  | td => exact closeGroup_pastTs (Nat.succ_le_succ index)
  | hb vs =>
    refine ⟨fun h => ?_, Nat.le_add_right_of_le index⟩
    cases hany : w.anyNonT0 <;> simp [hany] at h
  | tck => exact ⟨fun h => (nomatch h), hcur⟩

/-- No character of a run changes what the pseudocode gives. -/
theorem resume_run (n : Nat) {w : AtrWork} (hw : w.UnderWay) (hpast : w.PastTs) (hprot : w.ProtocolsOk) :
    (AtrWork.run cfg n w).resume cfg = w.resume cfg := by
  have keeps (v u : AtrWork) (_ : v.UnderWay) (hv : v.PastTs ∧ v.ProtocolsOk ∧ v.resume cfg = w.resume cfg)
      (ht : v.Tick cfg u) : u.PastTs ∧ u.ProtocolsOk ∧ u.resume cfg = w.resume cfg := by
    obtain ⟨hp, hok, hv⟩ := hv
    have unchecked (hphase : v.phase = .hist) : v.tck = none := by
      by_contra hc
      cases hphase.symm.trans (hok.checked.1 hc).1
    exact ⟨ht.pastTs hp, ht.protocolsOk hok, (ht.resume_eq hp.pastTs unchecked hp.index).trans hv⟩
  obtain ⟨⟨-, -, hresume⟩, -⟩ := run_induction keeps n w hw ⟨hpast, hprot, rfl⟩
  exact hresume

/-- At the end of a decode the pseudocode has nothing left to do but its steps 7 and 8. -/
theorem result_eq_resume {w : AtrWork} (hw : w.UnderWay) (hfactors : w.FactorsOk cfg) (hplace : w.place = none) :
    w.result = w.resume cfg := by
  cases he : w.error with
  | some r => rw [result_of_error w r he, resume_of_error he]
  | none =>
    have hphase := phase_final_of_place_none hw he hplace
    have hta := firstTa_of_final hfactors hphase
    rw [resume_of_ok he, AtrWork.fromPhase, hphase]
    simp only [AtrWork.result, he, AtrWork.fromEnd, hfactors.fi, hfactors.di, hta]

theorem atrEnd_factorsOk {raw : List Byte} (h : 2 ≤ raw.length) :
    (atrEnd cfg raw).FactorsOk cfg ∧ (atrEnd cfg raw).UnderWay :=
  atrEnd_induction h (start_factorsOk raw) fun _ _ _ hw ht => ht.factorsOk hw

theorem resume_atrEnd {raw : List Byte} (h : 2 ≤ raw.length) : (atrEnd cfg raw).resume cfg = decodeAtr cfg raw := by
  have here := start_place raw h
  have hne : (AtrWork.start raw).place ≠ none := by simp [here]
  have hfirst := tick_start (cfg := cfg) h
  have hpseudo := decodeAtr_eq (cfg := cfg) h
  rw [atrEnd, run_next cfg _ _ hne, hfirst]
  cases hconv : conventionOf (raw.getD 0 0x00#8) with
  | error r =>
    rw [hconv] at hpseudo
    rw [run_done cfg _ _ (place_of_error _ r rfl), resume_of_error rfl, hpseudo]
    rfl
  | ok conv =>
    have hw := (tick_cases cfg (start_underWay h) here).underWay (start_underWay h)
    have hprot := (tick_cases cfg (start_underWay h) here).protocolsOk (start_protocolsOk raw)
    rw [hfirst, hconv] at hw hprot
    rw [resume_run _ hw ⟨fun h => (nomatch h), Nat.le_refl 2⟩ hprot, ← resume_start h,
      resume_of_ok (if_neg (Nat.not_lt.2 h)), resume_of_ok (if_neg (Nat.not_lt.2 h))]
    show _ = (conventionOf (raw.getD 0 0x00#8)).bind _
    rw [hconv]
    rfl

/-- The character rows of a run and the pseudocode agree on every input. -/
theorem runAtr_eq_decodeAtr (cfg : Config) (raw : List Byte) : runAtr cfg raw = decodeAtr cfg raw := by
  by_cases h : raw.length < 2
  · rw [runAtr_short cfg raw h, decodeAtr_short h]
  · have htwo : 2 ≤ raw.length := Nat.not_lt.1 h
    obtain ⟨hfactors, hw⟩ := atrEnd_factorsOk (cfg := cfg) htwo
    rw [runAtr_eq, result_eq_resume hw hfactors (atrEnd_place htwo), resume_atrEnd htwo]

/-- Settles O10: the run that DECODE_ATR is gives what the pseudocode gives (`runAtr_eq_decodeAtr`). -/
theorem decodeAtrDeliversThePseudocodesResult : Obligations.DecodeAtrDeliversThePseudocodesResult := by
  intro raw s
  rw [← runAtr_eq_decodeAtr]
  rfl

/-- Settles O25: where the check fails each row records its error; rule R130's example is run through the pseudocode. -/
theorem truncationCheckComesFirst : Obligations.TruncationCheckComesFirst := by
  refine ⟨fun s v a b hlen => ?_, fun cfg => runAtr_eq_decodeAtr cfg _⟩
  have hcheck {slot : Slot} (hslot : slot ∈ [.ta1, .ta, .tb, .tc, .td]) :
      s.atrd.shortfall slot = some .truncated := by
    rw [shortfall_interfaceByte _ hslot, (isTruncated_iff _).2 hlen]; rfl
  exact ⟨fun h => exec_consume_short rfl h (hcheck (by simp)), fun h => exec_consume_short rfl h (hcheck (by simp)),
    fun h => exec_consume_short rfl h (hcheck (by simp)), fun h => exec_consume_short rfl h (hcheck (by simp)),
    fun h => exec_consume_short rfl h (hcheck (by simp))⟩

end Sys2Proof.Machine
end

section
/-! PROOFS. What a decoded record says of its input: how the pseudocode has read its groups, said once (`ChainReads`), and the
laws of rule R120's record that follow from it. -/

namespace Sys2Proof.Machine

open Sys2Proof

/-! ### The bytes of a group -/

/-- How one interface byte is consumed: it is absent, or it is the byte at the cursor (rules R125 to R128, R130, R135). -/
inductive Reads (raw : List Byte) (k : Nat) (anyNonT0 : Bool) (name : FieldId) (c : AtrCursor) :
    Option Byte → AtrCursor → Prop
  | absent : Reads raw k anyNonT0 name c none c
  | present (fits : c.cur + 1 + k + (if anyNonT0 then 1 else 0) ≤ raw.length) :
      Reads raw k anyNonT0 name c (some (raw.getD c.cur 0x00#8)) { cur := c.cur + 1, order := c.order ++ [name] }

/-- How one group is consumed, in the order TA, TB, TC, TD, by the bits of its mask (rule R124). -/
inductive GroupReads (raw : List Byte) (k : Nat) (i : Nat) (mask : Nibble) (anyNonT0 : Bool) (c : AtrCursor) :
    AtrGroup → AtrCursor → Prop
  | intro {ta tb tc td : Option Byte} {c1 c2 c3 c4 : AtrCursor}
      (bits : ta.isSome = mask.getLsbD 0 ∧ tb.isSome = mask.getLsbD 1 ∧ tc.isSome = mask.getLsbD 2 ∧
        td.isSome = mask.getLsbD 3)
      (hta : Reads raw k anyNonT0 (.ta i) c ta c1) (htb : Reads raw k anyNonT0 (.tb i) c1 tb c2)
      (htc : Reads raw k anyNonT0 (.tc i) c2 tc c3) (htd : Reads raw k anyNonT0 (.td i) c3 td c4) :
      GroupReads raw k i mask anyNonT0 c { ta := ta, tb := tb, tc := tc, td := td, protocol := td.map loNibble } c4

/-- How the groups from group `i` on are consumed: each TD gives the mask of the next group, and a group without TD is the
last (rules R128, R129, R136). -/
inductive ChainReads (raw : List Byte) (k : Nat) :
    Nat → Nibble → Bool → AtrCursor → List AtrGroup → Bool → AtrCursor → Prop
  | last {i : Nat} {mask : Nibble} {anyNonT0 : Bool} {c c' : AtrCursor} {g : AtrGroup}
      (hg : GroupReads raw k i mask anyNonT0 c g c') (htd : g.td = none) :
      ChainReads raw k i mask anyNonT0 c [g] anyNonT0 c'
  | next {i : Nat} {mask : Nibble} {anyNonT0 any' : Bool} {c c' c'' : AtrCursor} {g : AtrGroup} {gs : List AtrGroup}
      {td : Byte} (hg : GroupReads raw k i mask anyNonT0 c g c') (htd : g.td = some td)
      (rest : ChainReads raw k (i + 1) (hiNibble td) (anyNonT0 || loNibble td != 0#4) c' gs any' c'') :
      ChainReads raw k i mask anyNonT0 c (g :: gs) any' c''

theorem except_bind_eq_ok {ε α β : Type} {x : Except ε α} {f : α → Except ε β} {b : β} :
    (x >>= f) = .ok b ↔ ∃ a, x = .ok a ∧ f a = .ok b := by
  cases x with
  | error r => simp [bind, Except.bind]
  | ok a => simp [bind, Except.bind]

section
variable {raw : List Byte} {k : Nat} {anyNonT0 : Bool} {name : FieldId} {c : AtrCursor}

theorem consumeByte_eq_ok {v : Byte} {c' : AtrCursor} :
    consumeByte raw k anyNonT0 name c = .ok (v, c') ↔ Reads raw k anyNonT0 name c (some v) c' := by
  constructor
  · intro h
    by_cases fits : c.cur + 1 + k + (if anyNonT0 then 1 else 0) ≤ raw.length
    · rw [consumeByte_of_fits fits] at h
      cases h
      exact .present fits
    · rw [consumeByte_of_not_fits fits] at h
      cases h
  · intro h
    cases h with
    | present fits => exact consumeByte_of_fits fits name

theorem consumeIf_eq_ok {p : Bool} {x : Option Byte} {c' : AtrCursor} :
    consumeIf p raw k anyNonT0 name c = .ok (x, c') ↔ x.isSome = p ∧ Reads raw k anyNonT0 name c x c' := by
  unfold consumeIf
  cases p with
  | false =>
    constructor
    · intro h
      cases h
      exact ⟨rfl, .absent⟩
    · rintro ⟨hx, h⟩
      cases h with
      | absent => rfl
      | present => cases hx
  | true =>
    rw [if_pos rfl]
    cases hb : consumeByte raw k anyNonT0 name c with
    | error r =>
      refine ⟨fun h => (nomatch h), fun ⟨hx, h⟩ => ?_⟩
      obtain ⟨v, rfl⟩ := Option.isSome_iff_exists.1 hx
      rw [consumeByte_eq_ok.2 h] at hb
      cases hb
    | ok p =>
      obtain ⟨v, c1⟩ := p
      constructor
      · intro h
        cases h
        exact ⟨rfl, consumeByte_eq_ok.1 hb⟩
      · rintro ⟨hx, h⟩
        obtain ⟨v', rfl⟩ := Option.isSome_iff_exists.1 hx
        rw [consumeByte_eq_ok.2 h] at hb
        cases hb
        rfl

end

theorem ChainReads.ne_nil {raw : List Byte} {k i : Nat} {mask : Nibble} {any any' : Bool} {c c' : AtrCursor}
    {gs : List AtrGroup} (h : ChainReads raw k i mask any c gs any' c') : gs ≠ [] := by
  cases h <;> exact List.cons_ne_nil _ _

/-- The loop of step 4 succeeds exactly where the groups are read, given iterations for them all. -/
theorem groupLoop_eq_ok {raw : List Byte} {k fuel i : Nat} {mask : Nibble} {any : Bool} {groups : List AtrGroup}
    {c : AtrCursor} {e : AtrLoopEnd} :
    groupLoop raw k fuel i mask any groups c = .ok e ↔
      ∃ gs, gs.length ≤ fuel ∧ e.groups = groups ++ gs ∧ ChainReads raw k i mask any c gs e.anyNonT0 e.at_ := by
  induction fuel generalizing i mask any groups c with
  | zero =>
    refine ⟨fun h => (nomatch h), ?_⟩
    rintro ⟨gs, hlen, -, h⟩
    exact absurd (List.length_eq_zero_iff.1 (Nat.le_zero.1 hlen)) h.ne_nil
  | succ fuel ih =>
    simp only [groupLoop, except_bind_eq_ok, Prod.exists, consumeIf_eq_ok]
    constructor
    · rintro ⟨ta, c1, ⟨bta, hta⟩, tb, c2, ⟨btb, htb⟩, tc, c3, ⟨btc, htc⟩, h⟩
      split at h
      · next btd =>
        simp only [except_bind_eq_ok, Prod.exists, consumeByte_eq_ok] at h
        obtain ⟨td, c4, htd, h⟩ := h
        obtain ⟨gs, hlen, hgs, hrest⟩ := ih.1 h
        exact ⟨_ :: gs, Nat.succ_le_succ hlen, by rw [hgs, List.append_assoc]; rfl,
          .next (.intro (td := some td) ⟨bta, btb, btc, btd.symm⟩ hta htb htc htd) rfl hrest⟩
      · next btd =>
        cases h
        exact ⟨[_], Nat.le_add_left 1 fuel, rfl,
          .last (.intro ⟨bta, btb, btc, by simpa using btd⟩ hta htb htc .absent) rfl⟩
    · obtain ⟨egroups, eany, eat⟩ := e
      rintro ⟨gs, hlen, rfl, h⟩
      cases h with
      | last hg htd =>
        obtain ⟨⟨bta, btb, btc, btd⟩, hta, htb, htc, htd'⟩ := hg
        cases htd
        cases htd'
        have hbit : mask.getLsbD 3 = false := btd.symm
        exact ⟨_, _, ⟨bta, hta⟩, _, _, ⟨btb, htb⟩, _, _, ⟨btc, htc⟩, if_neg (Bool.eq_false_iff.1 hbit)⟩
      | next hg htd rest =>
        obtain ⟨⟨bta, btb, btc, btd⟩, hta, htb, htc, htd'⟩ := hg
        cases htd
        have hbit : mask.getLsbD 3 = true := btd.symm
        refine ⟨_, _, ⟨bta, hta⟩, _, _, ⟨btb, htb⟩, _, _, ⟨btc, htc⟩, ?_⟩
        rw [if_pos hbit]
        refine except_bind_eq_ok.2 ⟨_, consumeByte_eq_ok.2 htd', ih.2 ⟨_, Nat.le_of_succ_le_succ hlen, ?_, rest⟩⟩
        exact List.append_cons _ _ _

/-- Step 4 succeeds exactly where the groups are read as rule R124 says. -/
theorem groupsOf_eq_ok {raw : List Byte} {t0 : Byte} {e : AtrLoopEnd} :
    groupsOf raw t0 = .ok e ↔ e.groups.length ≤ raw.length ∧
      ChainReads raw (loNibble t0).toNat 1 (hiNibble t0) false { cur := 2, order := [.ts, .t0] } e.groups e.anyNonT0
        e.at_ := by
  rw [groupsOf, groupLoop_eq_ok]
  constructor
  · rintro ⟨gs, hlen, hgs, h⟩
    obtain rfl : e.groups = gs := hgs
    exact ⟨hlen, h⟩
  · rintro ⟨hlen, h⟩
    exact ⟨e.groups, hlen, rfl, h⟩

/-! ### The cursor, and the bytes that are looked at -/

/-- Two inputs of one length with the same bytes from `lo` up to `hi`. -/
def AgreeOn (raw raw' : List Byte) (lo hi : Nat) : Prop :=
  raw'.length = raw.length ∧ ∀ j, lo ≤ j → j < hi → raw'.getD j 0x00#8 = raw.getD j 0x00#8

section
variable {raw raw' : List Byte} {k i lo hi : Nat} {mask : Nibble} {any any' : Bool} {name : FieldId} {c c' : AtrCursor}
  {x : Option Byte} {g : AtrGroup} {gs : List AtrGroup}

theorem Reads.cur_eq (h : Reads raw k any name c x c') : c'.cur = c.cur + x.toList.length := by
  cases h <;> rfl

theorem GroupReads.cur_eq (h : GroupReads raw k i mask any c g c') : c'.cur = c.cur + g.size := by
  obtain ⟨-, hta, htb, htc, htd⟩ := h
  rw [htd.cur_eq, htc.cur_eq, htb.cur_eq, hta.cur_eq]
  simp only [AtrGroup.size]
  omega

theorem ChainReads.cur_eq (h : ChainReads raw k i mask any c gs any' c') : c'.cur = c.cur + (gs.map AtrGroup.size).sum := by
  induction h with
  | last hg => rw [hg.cur_eq]; simp
  | next hg _ _ ih => rw [ih, hg.cur_eq, List.map_cons, List.sum_cons, Nat.add_assoc]

theorem Reads.congr (h : Reads raw k any name c x c') (same : AgreeOn raw raw' lo hi) (hlo : lo ≤ c.cur)
    (hhi : c'.cur ≤ hi) : Reads raw' k any name c x c' := by
  obtain ⟨hlen, hbytes⟩ := same
  cases h with
  | absent => exact .absent
  | present fits =>
    rw [← hbytes c.cur hlo hhi]
    exact .present (by rwa [hlen])

theorem GroupReads.congr (h : GroupReads raw k i mask any c g c') (same : AgreeOn raw raw' lo hi) (hlo : lo ≤ c.cur)
    (hhi : c'.cur ≤ hi) : GroupReads raw' k i mask any c g c' := by
  obtain ⟨bits, hta, htb, htc, htd⟩ := h
  have h1 := hta.cur_eq
  have h2 := htb.cur_eq
  have h3 := htc.cur_eq
  have h4 := htd.cur_eq
  exact ⟨bits, hta.congr same (by omega) (by omega), htb.congr same (by omega) (by omega),
    htc.congr same (by omega) (by omega), htd.congr same (by omega) (by omega)⟩

theorem ChainReads.congr (h : ChainReads raw k i mask any c gs any' c') (same : AgreeOn raw raw' lo hi) (hlo : lo ≤ c.cur)
    (hhi : c'.cur ≤ hi) : ChainReads raw' k i mask any c gs any' c' := by
  induction h with
  | last hg htd => exact .last (hg.congr same hlo hhi) htd
  | next hg htd rest ih =>
    have h1 := hg.cur_eq
    have h2 := rest.cur_eq
    exact .next (hg.congr same hlo (by omega)) htd (ih (by omega) hhi)

end

/-- Where step 4 succeeds it has looked at the bytes up to its cursor only. -/
theorem groupsOf_congr {raw raw' : List Byte} {t0 : Byte} {e : AtrLoopEnd} (h : groupsOf raw t0 = .ok e)
    (same : AgreeOn raw raw' 2 e.at_.cur) : groupsOf raw' t0 = .ok e := by
  obtain ⟨hlen, hchain⟩ := groupsOf_eq_ok.1 h
  exact groupsOf_eq_ok.2 ⟨by rwa [same.1], hchain.congr same (Nat.le_refl 2) (Nat.le_refl _)⟩

/-! ### The one error of step 4 -/

theorem except_bind_eq_error {ε α β : Type} {x : Except ε α} {f : α → Except ε β} {r : ε} :
    (x >>= f) = .error r ↔ x = .error r ∨ ∃ a, x = .ok a ∧ f a = .error r := by
  cases x with
  | error r => simp [bind, Except.bind]
  | ok a => simp [bind, Except.bind]

section
variable {raw : List Byte} {k : Nat} {any : Bool} {name : FieldId} {c : AtrCursor} {r : Malformed}

theorem consumeByte_error (h : consumeByte raw k any name c = .error r) : r = .truncated := by
  by_cases fits : c.cur + 1 + k + (if any then 1 else 0) ≤ raw.length
  · rw [consumeByte_of_fits fits] at h
    cases h
  · rw [consumeByte_of_not_fits fits] at h
    cases h
    rfl

theorem consumeIf_error {p : Bool} (h : consumeIf p raw k any name c = .error r) : r = .truncated := by
  unfold consumeIf at h
  cases p with
  | false => cases h
  | true =>
    cases hb : consumeByte raw k any name c with
    | error r' =>
      rw [hb] at h
      cases h
      exact consumeByte_error hb
    | ok p => rw [hb] at h; cases h

/-- Step 4 has one error, that of rule R130's check. -/
theorem groupLoop_error {fuel i : Nat} {mask : Nibble} {groups : List AtrGroup}
    (h : groupLoop raw k fuel i mask any groups c = .error r) : r = .truncated := by
  induction fuel generalizing i mask any groups c with
  | zero => cases h; rfl
  | succ fuel ih =>
    simp only [groupLoop, except_bind_eq_error] at h
    obtain h | ⟨_, -, h | ⟨_, -, h | ⟨_, -, h⟩⟩⟩ := h
    · exact consumeIf_error h
    · exact consumeIf_error h
    · exact consumeIf_error h
    · split at h
      · obtain h | ⟨_, -, h⟩ := except_bind_eq_error.1 h
        · exact consumeByte_error h
        · exact ih h
      · cases h

end

/-- Step 4 does not look at TS and T0 again. -/
theorem groupsOf_eq_of_agree {raw raw' : List Byte} (t0 : Byte) (same : ∀ hi, AgreeOn raw raw' 2 hi) :
    groupsOf raw' t0 = groupsOf raw t0 := by
  cases h : groupsOf raw t0 with
  | ok e => exact groupsOf_congr h (same _)
  | error r =>
    cases h' : groupsOf raw' t0 with
    | error r' => rw [groupLoop_error h, groupLoop_error h']
    | ok e =>
      have back : AgreeOn raw' raw 2 e.at_.cur := ⟨(same 0).1.symm, fun j hlo hhi => ((same _).2 j hlo hhi).symm⟩
      rw [groupsOf_congr h' back] at h
      cases h

/-! ### What a record says -/

/-- An input that gives a record: it is long enough, TS selects a convention, step 4 succeeds, and the input ends where the
record does (rules R121, R122, R124, R134). -/
structure Parses (raw : List Byte) (conv : Convention) (e : AtrLoopEnd) : Prop where
  long : 2 ≤ raw.length
  ts : conventionOf (raw.getD 0 0x00#8) = .ok conv
  groups : groupsOf raw (raw.getD 1 0x00#8) = .ok e
  exact : e.at_.cur + (loNibble (raw.getD 1 0x00#8)).toNat + (if e.anyNonT0 then 1 else 0) = raw.length

/-- The record of such an input. -/
def recordOf (cfg : Config) (raw : List Byte) (conv : Convention) (e : AtrLoopEnd) : AtrRecord :=
  atrRecord cfg raw conv (raw.getD 1 0x00#8) (loNibble (raw.getD 1 0x00#8)).toNat e

variable {cfg : Config}

theorem afterLoop_eq_ok {raw : List Byte} {conv : Convention} {t0 : Byte} {k : Nat} {e : AtrLoopEnd} {r : AtrRecord} :
    afterLoop cfg raw conv t0 k e = .ok r ↔
      e.at_.cur + k + (if e.anyNonT0 then 1 else 0) = raw.length ∧ r = atrRecord cfg raw conv t0 k e := by
  unfold afterLoop
  by_cases hexact : e.at_.cur + k + (if e.anyNonT0 then 1 else 0) = raw.length
  · rw [if_pos hexact, Except.ok.injEq, eq_comm, and_iff_right hexact]
  · rw [if_neg hexact]
    exact ⟨fun h => (nomatch h), fun h => absurd h.1 hexact⟩

/-- What it is that an input decodes to a record. -/
theorem runAtr_eq_ok {raw : List Byte} {r : AtrRecord} :
    runAtr cfg raw = .ok r ↔ ∃ conv e, Parses raw conv e ∧ r = recordOf cfg raw conv e := by
  rw [runAtr_eq_decodeAtr]
  constructor
  · intro h
    have hlong : 2 ≤ raw.length := by
      by_contra hshort
      rw [decodeAtr_short (Nat.not_le.1 hshort)] at h
      cases h
    rw [decodeAtr_eq hlong] at h
    obtain ⟨conv, hts, h⟩ := except_bind_eq_ok.1 h
    obtain ⟨e, hgroups, h⟩ := except_bind_eq_ok.1 h
    obtain ⟨hexact, rfl⟩ := afterLoop_eq_ok.1 h
    exact ⟨conv, e, ⟨hlong, hts, hgroups, hexact⟩, rfl⟩
  · rintro ⟨conv, e, ⟨hlong, hts, hgroups, hexact⟩, rfl⟩
    rw [decodeAtr_eq hlong, hts]
    show (groupsOf raw _).bind _ = _
    rw [hgroups]
    exact afterLoop_eq_ok.2 ⟨hexact, rfl⟩

theorem Parses.chain {raw : List Byte} {conv : Convention} {e : AtrLoopEnd} (h : Parses raw conv e) :
    ChainReads raw (loNibble (raw.getD 1 0x00#8)).toNat 1 (hiNibble (raw.getD 1 0x00#8)) false
      { cur := 2, order := [.ts, .t0] } e.groups e.anyNonT0 e.at_ :=
  (groupsOf_eq_ok.1 h.groups).2

/-! ### TS, T0 and the length -/

/-- Settles O12: the decode is over before a byte is read (`runAtr_short`). -/
theorem shortAtrIsTooShort : Obligations.ShortAtrIsTooShort := by
  intro raw s hshort
  rw [← runAtr_short s.cfg raw hshort]
  rfl

/-- Settles O13: step 2 of the pseudocode decides, after the length check. -/
theorem initialCharacterSelectsTheConvention : Obligations.InitialCharacterSelectsTheConvention := by
  refine ⟨fun cfg ts t0 rest hdirect hinverse => ?_, fun cfg rest r h => ?_, fun cfg rest r h => ?_,
    fun cfg ts => runAtr_short cfg [ts] Nat.one_lt_two⟩
  · have hts : conventionOf ts = .error .badTs := by rw [conventionOf, if_neg hdirect, if_neg hinverse]
    rw [runAtr_eq_decodeAtr, decodeAtr_eq (by simp), List.getD_cons_zero, hts]
    rfl
  · obtain ⟨conv, e, hp, rfl⟩ := runAtr_eq_ok.1 h
    exact (Except.ok.inj hp.ts).symm
  · obtain ⟨conv, e, hp, rfl⟩ := runAtr_eq_ok.1 h
    exact (Except.ok.inj hp.ts).symm

/-- Settles O19: the record of the pseudocode reads its factors off group 1, which always exists. -/
theorem ta1IsInterpretedThroughTheTables : Obligations.Ta1IsInterpretedThroughTheTables := by
  intro cfg raw r h
  obtain ⟨conv, e, hp, rfl⟩ := runAtr_eq_ok.1 h
  obtain ⟨g, gs, hg⟩ := List.exists_cons_of_ne_nil hp.chain.ne_nil
  refine ⟨g, by simp [recordOf, atrRecord, hg], ?_⟩
  simp [recordOf, atrRecord, hg]

/-! ### The convention is a label -/

/-- The first byte is looked at by step 2 only. -/
theorem agreeOn_cons (a b : Byte) (rest : List Byte) (hi : Nat) : AgreeOn (a :: rest) (b :: rest) 2 hi := by
  refine ⟨rfl, fun j hlo _ => ?_⟩
  obtain ⟨j, rfl⟩ := Nat.exists_eq_succ_of_ne_zero (show j ≠ 0 by omega)
  rfl

/-- Steps 5 to 8 look at no byte before the cursor step 4 leaves. -/
theorem afterLoop_convention {rest : List Byte} {t0 : Byte} {k : Nat} {e : AtrLoopEnd} (hcur : 2 ≤ e.at_.cur) :
    afterLoop cfg (0x3F#8 :: rest) .inverse t0 k e
      = (afterLoop cfg (0x3B#8 :: rest) .direct t0 k e).map fun r => { r with initialCharacter := Convention.inverse } := by
  obtain ⟨m, hm⟩ := Nat.exists_eq_succ_of_ne_zero (show e.at_.cur ≠ 0 by omega)
  have hrecord : atrRecord cfg (0x3F#8 :: rest) .inverse t0 k e
      = { atrRecord cfg (0x3B#8 :: rest) .direct t0 k e with initialCharacter := .inverse } := by
    simp [atrRecord, hm, Nat.succ_add]
  unfold afterLoop
  rw [hrecord, List.length_cons, List.length_cons]
  by_cases hexact : e.at_.cur + k + (if e.anyNonT0 then 1 else 0) = rest.length + 1
  · rw [if_pos hexact, if_pos hexact]
    rfl
  · rw [if_neg hexact, if_neg hexact]
    rfl

/-- Settles O14: step 4 gives the same on both inputs, and steps 5 to 8 read nothing before its cursor. -/
theorem inverseConventionChangesTheLabelOnly : Obligations.InverseConventionChangesTheLabelOnly := by
  intro cfg rest
  cases rest with
  | nil =>
    rw [runAtr_short cfg [0x3F#8] Nat.one_lt_two, runAtr_short cfg [0x3B#8] Nat.one_lt_two]
    rfl
  | cons t0 rest =>
    have hgroups := groupsOf_eq_of_agree t0 (agreeOn_cons 0x3B#8 0x3F#8 (t0 :: rest))
    rw [runAtr_eq_decodeAtr, runAtr_eq_decodeAtr, decodeAtr_eq (by simp), decodeAtr_eq (by simp)]
    show (groupsOf (0x3F#8 :: t0 :: rest) t0).bind _ = ((groupsOf (0x3B#8 :: t0 :: rest) t0).bind _).map _
    rw [hgroups]
    cases h : groupsOf (0x3B#8 :: t0 :: rest) t0 with
    | error r => rfl
    | ok e =>
      have hcur := (groupsOf_eq_ok.1 h).2.cur_eq
      exact afterLoop_convention (by rw [hcur]; exact Nat.le_add_right 2 _)

/-! ### The check byte is not looked at -/

section
variable {pre : List Byte} {c : Byte} {conv : Convention} {e : AtrLoopEnd}

theorem getD_append_last {j : Nat} (hj : j < pre.length) (x : Byte) :
    (pre ++ [x]).getD j 0x00#8 = pre.getD j 0x00#8 :=
  List.getD_append _ _ _ _ hj

/-- Where a check byte is the last byte, step 4 and step 5 end before it (rule R132). -/
theorem Parses.end_before_last (h : Parses (pre ++ [c]) conv e) (hany : e.anyNonT0 = true) :
    2 ≤ e.at_.cur ∧ e.at_.cur + (loNibble (pre.getD 1 0x00#8)).toNat = pre.length := by
  have hcur : 2 ≤ e.at_.cur := h.chain.cur_eq ▸ Nat.le_add_right 2 _
  have hexact := h.exact
  rw [hany, if_pos rfl, List.length_append, List.length_singleton, Nat.add_right_cancel_iff] at hexact
  rw [← getD_append_last (show 1 < pre.length by omega) c]
  exact ⟨hcur, hexact⟩

/-- The record holds the check byte and depends on no other part of it. -/
theorem Parses.recordOf_last (h : Parses (pre ++ [c]) conv e) (hany : e.anyNonT0 = true) :
    recordOf cfg (pre ++ [c]) conv e = { recordOf cfg pre conv e with checkByte := some c } := by
  obtain ⟨hcur, hexact⟩ := h.end_before_last hany
  rw [recordOf, recordOf, getD_append_last (show 1 < pre.length by omega)]
  generalize (loNibble (pre.getD 1 0x00#8)).toNat = k at hexact ⊢
  have hhist : ((pre ++ [c]).drop e.at_.cur).take k = (pre.drop e.at_.cur).take k := by
    rw [List.drop_append_of_le_length (by omega), List.take_append_of_le_length (by rw [List.length_drop]; omega)]
  have hlast : (pre ++ [c]).getD (e.at_.cur + k) 0x00#8 = c := by simp [hexact]
  simp only [atrRecord, hhist, hany, hlast, if_true]

/-- No value of the check byte is refused. -/
theorem Parses.change_last (h : Parses (pre ++ [c]) conv e) (hany : e.anyNonT0 = true) (d : Byte) :
    Parses (pre ++ [d]) conv e := by
  obtain ⟨hcur, hend⟩ := h.end_before_last hany
  obtain ⟨hlong, hts, hgroups, hexact⟩ := h
  have hlen : (pre ++ [d]).length = (pre ++ [c]).length := by simp
  have hsame {j : Nat} (hj : j < pre.length) : (pre ++ [d]).getD j 0x00#8 = (pre ++ [c]).getD j 0x00#8 := by
    rw [getD_append_last hj, getD_append_last hj]
  have h1 := hsame (show 1 < pre.length by omega)
  exact ⟨hlen ▸ hlong, hsame (show 0 < pre.length by omega) ▸ hts,
    h1 ▸ groupsOf_congr hgroups ⟨hlen, fun j _ hj => hsame (by omega)⟩, by rw [h1, hlen, hexact]⟩

end

/-- Settles O18: steps 4 and 5 end before the check byte, and the record only stores it. -/
theorem checkByteIsNotValidated : Obligations.CheckByteIsNotValidated := by
  intro cfg pre c d r h hcheck
  obtain ⟨conv, e, hp, rfl⟩ := runAtr_eq_ok.1 h
  have hany : e.anyNonT0 = true := by
    by_contra hn
    simp [recordOf, atrRecord, hn] at hcheck
  have hp' := hp.change_last hany d
  rw [hp.recordOf_last hany]
  exact ⟨rfl, runAtr_eq_ok.2 ⟨conv, e, hp', (hp'.recordOf_last hany).symm⟩⟩

/-! ### One group more than TD bytes -/

theorem ChainReads.td_iff {raw : List Byte} {k i : Nat} {mask : Nibble} {any any' : Bool} {c c' : AtrCursor}
    {gs : List AtrGroup} (h : ChainReads raw k i mask any c gs any' c') :
    ∀ j g, gs[j]? = some g → (g.td.isSome ↔ j + 1 < gs.length) := by
  induction h with
  | last hg htd =>
    intro j g hj
    obtain ⟨hlt, rfl⟩ := List.getElem?_eq_some_iff.1 hj
    obtain rfl : j = 0 := Nat.lt_one_iff.1 hlt
    simp [htd]
  | next hg htd rest ih =>
    intro j g hj
    cases j with
    | zero =>
      cases hj
      simp [htd, List.length_pos_iff.2 rest.ne_nil]
    | succ j => rw [ih j g hj, List.length_cons, Nat.succ_lt_succ_iff]

theorem ChainReads.length_eq {raw : List Byte} {k i : Nat} {mask : Nibble} {any any' : Bool} {c c' : AtrCursor}
    {gs : List AtrGroup} (h : ChainReads raw k i mask any c gs any' c') :
    gs.length = 1 + (gs.filter fun g => g.td.isSome).length := by
  induction h with
  | last hg htd => simp [htd]
  | next hg htd rest ih =>
    rw [List.filter_cons_of_pos (by simp [htd]), List.length_cons, List.length_cons, ih]
    rfl

/-- Settles O16, by the chain of groups; rule R136's example is run through the pseudocode. -/
theorem groupsFollowTheTdChain : Obligations.GroupsFollowTheTdChain := by
  refine ⟨fun cfg raw r h => ?_, fun cfg => ?_⟩
  · obtain ⟨conv, e, hp, rfl⟩ := runAtr_eq_ok.1 h
    exact ⟨List.length_pos_iff.2 hp.chain.ne_nil, hp.chain.td_iff, hp.chain.length_eq⟩
  · rw [runAtr_eq_decodeAtr]
    exact ⟨_, rfl, rfl⟩

/-! ### The length law -/

/-- The fields listed so far, written out, are the input up to the cursor, and their sizes add up to the cursor (rules R135,
R141). -/
structure WrittenOut (r : AtrRecord) (raw : List Byte) (c : AtrCursor) : Prop where
  bytes : c.order.flatMap r.fieldBytes = raw.take c.cur
  sizes : (c.order.map fun f => if f = .hb then r.historicalBytes.length else 1).sum = c.cur

section
variable {r : AtrRecord} {raw : List Byte} {k i : Nat} {mask : Nibble} {any any' : Bool} {name : FieldId}
  {c c' : AtrCursor} {x : Option Byte} {g : AtrGroup} {gs : List AtrGroup}

theorem Reads.writtenOut (h : Reads raw k any name c x c') (hfield : r.fieldBytes name = x.toList) (hname : name ≠ .hb)
    (hc : WrittenOut r raw c) : WrittenOut r raw c' := by
  cases h with
  | absent => exact hc
  | present fits =>
    have hlt : c.cur < raw.length := by omega
    refine ⟨?_, ?_⟩
    · rw [List.flatMap_append, hc.bytes, List.flatMap_singleton, hfield, List.take_add_one, List.getD_eq_getElem?_getD,
        List.getElem?_eq_getElem hlt]
      rfl
    · rw [List.map_append, List.sum_append, hc.sizes]
      simp [hname]

theorem GroupReads.writtenOut (h : GroupReads raw k i mask any c g c') (hg : r.interfaceGroups[i - 1]? = some g)
    (hc : WrittenOut r raw c) : WrittenOut r raw c' := by
  obtain ⟨-, hta, htb, htc, htd⟩ := h
  have h1 := hta.writtenOut (by simp [AtrRecord.fieldBytes, hg]) (by simp) hc
  have h2 := htb.writtenOut (by simp [AtrRecord.fieldBytes, hg]) (by simp) h1
  have h3 := htc.writtenOut (by simp [AtrRecord.fieldBytes, hg]) (by simp) h2
  exact htd.writtenOut (by simp [AtrRecord.fieldBytes, hg]) (by simp) h3

theorem ChainReads.writtenOut (h : ChainReads raw k i mask any c gs any' c') (hi : 1 ≤ i)
    (hgs : r.interfaceGroups.drop (i - 1) = gs) (hc : WrittenOut r raw c) : WrittenOut r raw c' := by
  have current {i : Nat} {g : AtrGroup} {gs : List AtrGroup} (hgs : r.interfaceGroups.drop (i - 1) = g :: gs) :
      r.interfaceGroups[i - 1]? = some g := by
    rw [← List.head?_drop, hgs, List.head?_cons]
  induction h with
  | last hg _ => exact hg.writtenOut (current hgs) hc
  | @next i _ _ _ _ _ _ _ _ _ hg _ _ ih =>
    refine ih (Nat.le_add_left 1 i) ?_ (hg.writtenOut (current hgs) hc)
    obtain ⟨m, rfl⟩ := Nat.exists_eq_add_of_le' hi
    rw [Nat.add_sub_cancel] at hgs ⊢
    rw [← List.tail_drop, hgs, List.tail_cons]

/-- Step 5 lists the historical bytes once, if there are any (rules R131, R135). -/
theorem WrittenOut.historical (hc : WrittenOut r raw c) (hhist : r.historicalBytes = (raw.drop c.cur).take k)
    (hlen : c.cur + k ≤ raw.length) :
    WrittenOut r raw { cur := c.cur + k, order := c.order ++ if 1 ≤ k then [.hb] else [] } := by
  have hk : r.historicalBytes.length = k := by
    rw [hhist, List.length_take, List.length_drop]
    omega
  cases k with
  | zero => simpa using hc
  | succ k =>
    refine ⟨?_, ?_⟩
    · rw [if_pos (Nat.le_add_left 1 k), List.flatMap_append, hc.bytes, List.flatMap_singleton, List.take_add]
      exact congrArg _ hhist
    · rw [if_pos (Nat.le_add_left 1 k), List.map_append, List.sum_append, hc.sizes]
      simp [hk]

/-- Step 6 lists a check byte, which ends the input (rules R132, R134, R135). -/
theorem WrittenOut.check (hc : WrittenOut r raw c)
    (hcheck : r.checkByte = if any then some (raw.getD c.cur 0x00#8) else none)
    (hend : c.cur + (if any then 1 else 0) = raw.length) :
    WrittenOut r raw { cur := raw.length, order := c.order ++ if any then [.tck] else [] } := by
  rw [← hend]
  cases any with
  | false => simpa using hc
  | true =>
    have htck : Reads raw 0 false .tck c r.checkByte { cur := c.cur + 1, order := c.order ++ [.tck] } :=
      hcheck ▸ .present (Nat.le_of_eq hend)
    exact htck.writtenOut rfl (by simp) hc

end

theorem ts_of_conventionOf {ts : Byte} {conv : Convention} (h : conventionOf ts = .ok conv) : conv.ts = ts := by
  by_cases hdirect : ts = 0x3B#8
  · subst hdirect; cases h; rfl
  · by_cases hinverse : ts = 0x3F#8
    · subst hinverse; cases h; rfl
    · rw [conventionOf, if_neg hdirect, if_neg hinverse] at h
      cases h

section
variable {raw : List Byte} {conv : Convention} {e : AtrLoopEnd}

theorem Parses.writtenOut_start (h : Parses raw conv e) :
    WrittenOut (recordOf cfg raw conv e) raw { cur := 2, order := [.ts, .t0] } := by
  refine ⟨?_, rfl⟩
  match raw, h.long with
  | ts :: t0 :: rest, _ =>
    show [conv.ts] ++ ([t0] ++ []) = [ts, t0]
    rw [ts_of_conventionOf h.ts]
    rfl

/-- The historical bytes are all there (rule R131). -/
theorem Parses.historical_length (h : Parses raw conv e) :
    (recordOf cfg raw conv e).historicalBytes.length = (loNibble (raw.getD 1 0x00#8)).toNat := by
  have hexact := h.exact
  simp only [recordOf, atrRecord, List.length_take, List.length_drop]
  omega

/-- The fields of a record, written out, are its input (rule R141). -/
theorem Parses.writtenOut (h : Parses raw conv e) :
    WrittenOut (recordOf cfg raw conv e) raw
      { cur := raw.length, order := (recordOf cfg raw conv e).fieldOrder } := by
  have hexact := h.exact
  have hgroups : WrittenOut (recordOf cfg raw conv e) raw e.at_ :=
    h.chain.writtenOut (Nat.le_refl 1) rfl h.writtenOut_start
  exact (hgroups.historical rfl (by omega)).check rfl hexact

end

/-- Settles O15: the length by groups is where the cursor stands at the end; the other two forms are `Parses.writtenOut`. -/
theorem atrLengthLaw : Obligations.AtrLengthLaw := by
  intro cfg raw r h
  obtain ⟨conv, e, hp, rfl⟩ := runAtr_eq_ok.1 h
  obtain ⟨hbytes, hsizes⟩ := hp.writtenOut (cfg := cfg)
  refine ⟨?_, hsizes, hbytes.trans List.take_length⟩
  have hcur : e.at_.cur = 2 + (e.groups.map AtrGroup.size).sum := hp.chain.cur_eq
  have hcheck : (if (recordOf cfg raw conv e).checkByte = none then 0 else 1) = if e.anyNonT0 then 1 else 0 := by
    cases hany : e.anyNonT0 <;> simp [recordOf, atrRecord, hany]
  rw [hp.historical_length, hcheck, ← hp.exact, hcur]
  rfl

end Sys2Proof.Machine
end

section
/-! PROOFS. What each turn of XE does, said once for `step`, and what each instruction writes. Acceptance (rules R161 to R163,
R184) and the rows that make no call follow from them. -/

namespace Sys2Proof.Machine

open Sys2Proof

/-! ### XE's own turn, state by state -/

section
variable {s : State} {es : List Event}

/-- In `Idle` the request that the choice names is run, in the state the choice leaves (rule R184, I15). -/
theorem step_idle {session : Session} {cmd : ApduCommand} {s' : State} (turn : s.XeTurn es) (idle : s.xe.state = .idle)
    (pick : (s.withEvents es).pickWaiting = some ((session, cmd), s')) : step s = exec (.exchange session cmd) s' := by
  apply step_run
  simp only [nextAction_xe s es turn, xeAction, State.withEvents_xe, idle, pick]

theorem step_issue {session : Session} (turn : s.XeTurn es) (sending : s.xe.state = .sending)
    (free : s.xe.txPending = false) (latched : s.xe.session = some session) :
    step s = .next ((s.withEvents es).issue session) := by
  apply step_goTo
  simp [nextAction_xe s es turn, xeAction, sending, free, latched]

theorem step_pending (turn : s.XeTurn es) (sending : s.xe.state = .sending) (pending : s.xe.txPending = true) :
    step s = .next (s.withEvents es) := by
  apply step_goTo
  simp [nextAction_xe s es turn, xeAction, sending, pending]

theorem step_deliverOk {sw : StatusWord} (turn : s.XeTurn es) (done : s.xe.state = .done) (status : s.xe.sw = some sw) :
    step s = .next ((s.withEvents es).deliverOk sw) := by
  apply step_goTo
  simp [nextAction_xe s es turn, xeAction, done, status]

theorem step_leaveError {e : XeError} (turn : s.XeTurn es) (failed : s.xe.state = .failed)
    (recorded : s.xe.error = some e) : step s = .next ((s.withEvents es).leaveError e) := by
  apply step_goTo
  simp [nextAction_xe s es turn, xeAction, failed, recorded]

/-- The transport's failure of the call XE waits for; `step_answer` is its answer with bytes. -/
theorem step_failure {info : Info} (turn : s.EventTurn (.answer s.calls.length (.failure info)) es)
    (waits : s.xe.waitsForAnswer = true) : step s = .next ((s.withEvents es).transportFailed info) := by
  have hexp : (s.withEvents es).expects s.calls.length = true :=
    (expects_iff _ _).2 ⟨(waitsForAnswer_iff _).1 waits, rfl⟩
  apply step_goTo
  rw [nextAction_event s _ es turn, eventAction, answerAction, if_pos hexp]

end

/-! ### The checks of a command -/

/-- Which field is named, in the order of rule R161; that none is named is `firstInvalidField_eq_none`. -/
theorem firstInvalidField_eq_some (c : ApduCommand) :
    (firstInvalidField c = some .cla ↔ ¬isByteValue c.cla = true) ∧
    (firstInvalidField c = some .ins ↔ isByteValue c.cla = true ∧ ¬isByteValue c.ins = true) ∧
    (firstInvalidField c = some .p1 ↔
      isByteValue c.cla = true ∧ isByteValue c.ins = true ∧ ¬isByteValue c.p1 = true) ∧
    (firstInvalidField c = some .p2 ↔
      isByteValue c.cla = true ∧ isByteValue c.ins = true ∧ isByteValue c.p1 = true ∧ ¬isByteValue c.p2 = true) ∧
    (firstInvalidField c = some .data ↔
      isByteValue c.cla = true ∧ isByteValue c.ins = true ∧ isByteValue c.p1 = true ∧ isByteValue c.p2 = true ∧
      ¬isValidData c.data = true) ∧
    (firstInvalidField c = some .le ↔
      isByteValue c.cla = true ∧ isByteValue c.ins = true ∧ isByteValue c.p1 = true ∧ isByteValue c.p2 = true ∧
      isValidData c.data = true ∧ ¬isValidLe c.le = true) := by
  unfold firstInvalidField
  generalize isByteValue c.cla = cla, isByteValue c.ins = ins, isByteValue c.p1 = p1, isByteValue c.p2 = p2,
    isValidData c.data = data, isValidLe c.le = le
  revert cla ins p1 p2 data le
  decide

theorem exec_exchange_invalid {s : State} {session : Session} {cmd : ApduCommand} {f : CmdField}
    (idle : s.xe.state = .idle) (bad : firstInvalidField cmd = some f) :
    exec (.exchange session cmd) s = .next (s.enterError (.invalidParameter f)) := by
  rw [exec, execExchange_idle session cmd s idle, acceptExchange_invalid s session cmd f bad]

theorem exec_exchange_valid {s : State} {session : Session} {cmd : ApduCommand}
    (idle : s.xe.state = .idle) (ok : firstInvalidField cmd = none) :
    exec (.exchange session cmd) s = .next (s.withXe ((s.xe.putFrame (serialize cmd)).accept session)) := by
  rw [exec, execExchange_idle session cmd s idle, acceptExchange_valid s session cmd ok]

/-- Settles O28: the checks in their order, each read as the range it stands for, and the entry to the error they name. -/
theorem exchangeNamesTheFirstInvalidField : Obligations.ExchangeNamesTheFirstInvalidField := by
  refine ⟨fun c => ?_, fun s session cmd f idle bad => exec_exchange_invalid idle bad⟩
  have hsome := firstInvalidField_eq_some c
  have hnone := firstInvalidField_eq_none c
  simp only [isByteValue_iff, isValidData_iff, isValidLe_iff, not_le] at hsome hnone
  obtain ⟨hcla, hins, hp1, hp2, hdata, hle⟩ := hsome
  exact ⟨hcla, hins, hp1, hp2, hdata, hle, hnone⟩

/-- Settles O29: the frame of rule R162 and the seven registers of rule R163 are all the registers there are. -/
theorem exchangeAcceptsAValidCommand : Obligations.ExchangeAcceptsAValidCommand :=
  fun _ _ _ idle ok => exec_exchange_valid idle ok

/-! ### Waiting requests -/

/-- Settles O9: the choice takes one request out of the queue, and the step runs it. -/
theorem idleAcceptsAWaitingExchange : Obligations.IdleAcceptsAWaitingExchange := by
  intro s es turn idle hne
  obtain ⟨pre, ⟨session, cmd⟩, post, n, hsplit, hpick⟩ := pickWaiting_split (s.withEvents es) hne
  exact ⟨pre, session, cmd, post, n, hsplit, step_idle turn idle hpick⟩

/-- No move takes a request out of the queue (rule R184); an EXCHANGE that finds XE busy is added at its end. -/
theorem Move.waiting_eq_append {s t : State} (hm : Move s t) : ∃ more, t.waiting = s.waiting ++ more := by
  cases hm with
  | enqueue session cmd => exact ⟨[(session, cmd)], rfl⟩
  | _ => exact ⟨[], (List.append_nil _).symm⟩

/-- Settles O32: outside `Idle` the queue only grows, and in `Idle` the one request that waits is run as an EXCHANGE. -/
theorem exchangeWaitsWhileXeIsBusy : Obligations.ExchangeWaitsWhileXeIsBusy := by
  refine ⟨fun s session cmd busy => execExchange_busy session cmd s busy, fun s t busy h => ?_,
    fun s es session cmd turn idle hw => ⟨fun f bad => ?_, fun ok => ?_⟩⟩
  · obtain ⟨s', hp, hm⟩ := step_cases s t h
    exact hp.waiting busy ▸ hm.waiting_eq_append
  · exact (step_waiting s es session cmd turn idle hw).trans (exec_exchange_invalid idle bad)
  · exact (step_waiting s es session cmd turn idle hw).trans (exec_exchange_valid idle ok)

/-! ### What an instruction writes -/

/-- A row that has a place of its own writes XE there and nothing elsewhere (notes/assumptions/4). -/
theorem next_withXe_or_stay (s : State) (x : Xe) (here : Prop) [Decidable here] :
    ∃ y, (.next (if here then s.withXe x else s) : Out) = .next (s.withXe y) := by
  split
  · exact ⟨x, rfl⟩
  · exact ⟨s.xe, rfl⟩

theorem acceptExchange_eq_withXe (s : State) (session : Session) (cmd : ApduCommand) :
    ∃ y, s.acceptExchange session cmd = s.withXe y := by
  cases h : firstInvalidField cmd with
  | some f => exact ⟨_, acceptExchange_invalid s session cmd f h⟩
  | none => exact ⟨_, acceptExchange_valid s session cmd h⟩

theorem execGetResponse_eq_withXe (l : Byte) (s : State) : ∃ y, execGetResponse l s = .next (s.withXe y) := by
  by_cases awaiting : s.xe.state = .awaitingContinuation
  · cases hc : capReached s.cfg s.xe with
    | true => exact ⟨_, execGetResponse_cap l s awaiting hc⟩
    | false => exact ⟨_, execGetResponse_below l s awaiting hc⟩
  · exact ⟨s.xe, congrArg Host.Outcome.next (if_neg awaiting)⟩

theorem execResponse_eq_withXe (pre : List Byte) (sw1 sw2 : Byte) (s : State) :
    ∃ y, execResponse pre sw1 sw2 s = .next (s.withXe y) := by
  cases waits : s.xe.waitsForAnswer with
  | true =>
    obtain ⟨t, ht⟩ := exec_isNext (.response pre sw1 sw2) s
    have hexec : execResponse pre sw1 sw2 s = .next t := ht
    obtain ⟨-, -, rfl⟩ | ⟨-, rfl⟩ | ⟨-, rfl⟩ := execResponse_cases pre sw1 sw2 s t waits hexec
    · exact ⟨_, hexec⟩
    · exact ⟨_, hexec⟩
    · exact ⟨_, hexec⟩
  | false => exact ⟨s.xe, execResponse_notWaiting pre sw1 sw2 s waits⟩

/-- A row that is no host request writes the XE registers or the working variables of a decode, and nothing at the ports. -/
theorem exec_row_writes (i : Instr) (s : State) (norequest : ∀ r : Request, i ≠ r.instr) :
    ∃ x w, exec i s = .next ((s.withXe x).withAtrd w) := by
  suffices (∃ x, exec i s = .next (s.withXe x)) ∨ ∃ w, exec i s = .next (s.withAtrd w) by
    obtain ⟨x, hx⟩ | ⟨w, hw⟩ := this
    · exact ⟨x, s.atrd, hx⟩
    · exact ⟨s.xe, w, hw⟩
  cases i with
  | decodeAtr raw => exact absurd rfl (norequest (.decodeAtr raw))
  | exchange session cmd => exact absurd rfl (norequest (.exchange session cmd))
  | describeSw code => exact absurd rfl (norequest (.describeSw code))
  | describeTransport code => exact absurd rfl (norequest (.describeTransport code))
  | apduCase1 | apduCase2 | apduCase3 | apduCase4 | swSuccess | swMoreData | swOther | responseShort =>
    exact .inl (next_withXe_or_stay s _ _)
  | getResponse l => exact .inl (execGetResponse_eq_withXe l s)
  | response pre sw1 sw2 => exact .inl (execResponse_eq_withXe pre sw1 sw2 s)
  | _ => exact .inr ⟨_, rfl⟩

/-- A host request delivers a result, writes XE, or waits. -/
theorem exec_request_cases (r : Request) (s : State) :
    (∃ d, exec r.instr s = .next (s.deliver d)) ∨ (∃ x, exec r.instr s = .next (s.withXe x)) ∨
    ∃ session cmd, exec r.instr s = .next (s.enqueue session cmd) := by
  cases r with
  | exchange session cmd =>
    by_cases idle : s.xe.state = .idle
    · obtain ⟨x, hx⟩ := acceptExchange_eq_withXe s session cmd
      exact .inr (.inl ⟨x, hx ▸ execExchange_idle session cmd s idle⟩)
    · exact .inr (.inr ⟨session, cmd, execExchange_busy session cmd s idle⟩)
  | _ => exact .inl ⟨_, rfl⟩

/-- Settles O53: neither a request nor a row writes the calls, the configuration or the events, and a row no result. -/
theorem instructionsMakeNoCall : Obligations.InstructionsMakeNoCall := by
  intro i s
  by_cases hreq : ∃ r : Request, i = r.instr
  · obtain ⟨r, rfl⟩ := hreq
    obtain ⟨d, h⟩ | ⟨x, h⟩ | ⟨session, cmd, h⟩ := exec_request_cases r s
    · exact ⟨_, h, rfl, rfl, rfl, rfl, fun hne => absurd rfl (hne r)⟩
    · exact ⟨_, h, rfl, rfl, rfl, rfl, fun hne => absurd rfl (hne r)⟩
    · exact ⟨_, h, rfl, rfl, rfl, rfl, fun hne => absurd rfl (hne r)⟩
  · obtain ⟨x, w, h⟩ := exec_row_writes i s (not_exists.1 hreq)
    exact ⟨_, h, rfl, rfl, rfl, rfl, fun _ => ⟨rfl, rfl⟩⟩

end Sys2Proof.Machine
end

section
/-! PROOFS. One round of XE, as rows and as steps: issue, answer, status word, continuation and delivery (rules R164 to R174),
and the agreement with the classification (rule R200). -/

namespace Sys2Proof.Machine

open Sys2Proof

/-! ### Issue and answer -/

/-- Settles O33: the issue step and the wait are the two turns of `Sending`. -/
theorem issueMakesOneCallAndWaits : Obligations.IssueMakesOneCallAndWaits :=
  ⟨fun _ _ _ turn sending free latched => step_issue turn sending free latched,
    fun _ _ turn sending pending => step_pending turn sending pending⟩

/-- Settles O34: the failure enters its error, whatever the registers hold. -/
theorem transportFailureEndsTheExchange : Obligations.TransportFailureEndsTheExchange :=
  fun _ _ _ turn sending pending => step_failure turn ((waitsForAnswer_iff _).2 ⟨sending, pending⟩)

/-- A response of fewer than two bytes is the row RESPONSE_SHORT, any other has a status word at its end (rule R93). -/
theorem decodeResponse_cases (r : List Byte) :
    (r.length < 2 ∧ ∃ b, decodeResponse r = .responseShort b) ∨
    (2 ≤ r.length ∧ ∃ pre sw1 sw2, decodeResponse r = .response pre sw1 sw2) := by
  obtain rfl | ⟨b, rfl⟩ | ⟨pre, sw1, sw2, rfl⟩ := response_cases r
  · exact .inl ⟨by simp, none, rfl⟩
  · exact .inl ⟨by simp, some b, rfl⟩
  · exact .inr ⟨by simp, pre, sw1, sw2, decodeResponse_append pre sw1 sw2⟩

/-- Settles O35: the answer runs the row, and the row enters the error. -/
theorem shortResponseIsEmptyResponse : Obligations.ShortResponseIsEmptyResponse := by
  have row (s : State) (b : Option Byte) (sending : s.xe.state = .sending) (pending : s.xe.txPending = true) :
      exec (.responseShort b) s = .next (s.enterError .emptyResponse) :=
    execResponseShort_waiting b s ((waitsForAnswer_iff _).2 ⟨sending, pending⟩)
  refine ⟨fun s r es turn sending pending hshort => ?_, row⟩
  obtain ⟨-, b, hb⟩ | ⟨hlong, -⟩ := decodeResponse_cases r
  · rw [step_answer s r es turn sending pending, hb]
    exact row (s.withEvents es) b sending pending
  · exact absurd hshort (Nat.not_lt.2 hlong)

/-- The registers after a response of two or more bytes: taken by rule R167, sorted by rules R168 to R170. -/
def Xe.afterResponse (cfg : Config) (x : Xe) (pre : List Byte) (sw1 sw2 : Byte) : Xe :=
  { x.takeResponse pre sw1 sw2 with
    state := if sw1 = 0x90#8 ∧ sw2 = 0x00#8 then .done
             else if sw1 = 0x61#8 then .awaitingContinuation else .failed,
    error := if sw1 = 0x90#8 ∧ sw2 = 0x00#8 then x.error
             else if sw1 = 0x61#8 then x.error
             else some (.cardStatus sw1 sw2 (swCatalogAt cfg (code16 sw1 sw2))) }

theorem exec_response_waiting (s : State) (pre : List Byte) (sw1 sw2 : Byte) (sending : s.xe.state = .sending)
    (pending : s.xe.txPending = true) :
    exec (.response pre sw1 sw2) s = .next (s.withXe (s.xe.afterResponse s.cfg pre sw1 sw2)) := by
  rw [exec, execResponse_waiting pre sw1 sw2 s ((waitsForAnswer_iff _).2 ⟨sending, pending⟩),
    sortStatus_sending (s.withXe (s.xe.takeResponse pre sw1 sw2)) sw1 sw2 sending]
  unfold Xe.afterResponse
  split
  · rfl
  · split
    · rfl
    · rfl

/-- Settles O36: the answer runs the row, and the row takes the response and sorts its status word. -/
theorem responseIsSplitAppendedAndSorted : Obligations.ResponseIsSplitAppendedAndSorted := by
  intro s pre sw1 sw2 sending pending
  refine ⟨exec_response_waiting s pre sw1 sw2 sending pending, fun es turn => ?_⟩
  rw [step_answer s _ es turn sending pending, decodeResponse_append]
  exact exec_response_waiting (s.withEvents es) pre sw1 sw2 sending pending

/-- Settles O37: in `Sending` each row takes the branch that writes. -/
theorem statusWordRowsMoveXe : Obligations.StatusWordRowsMoveXe :=
  fun _ _ _ sending => ⟨congrArg Host.Outcome.next (if_pos sending), congrArg Host.Outcome.next (if_pos sending),
    congrArg Host.Outcome.next (if_pos sending)⟩

/-! ### The classification -/

theorem code16_eq_success_iff (sw1 sw2 : Byte) : code16 sw1 sw2 = 0x9000#16 ↔ sw1 = 0x90#8 ∧ sw2 = 0x00#8 := by
  constructor
  · intro h
    obtain ⟨-, hhi, hlo⟩ := statusWordCode sw1 sw2
    rw [h] at hhi hlo
    exact ⟨hhi.symm, hlo.symm⟩
  · rintro ⟨rfl, rfl⟩
    rfl

theorem classify_success (cfg : Config) : classify cfg 0x90#8 0x00#8 = .success := rfl

theorem classify_moreData (cfg : Config) (sw2 : Byte) : classify cfg 0x61#8 sw2 = .moreDataAvailable sw2 := by
  rw [classify, if_neg (by simp [code16_eq_success_iff]), if_pos rfl]

/-- A status word with no row of its own is classed by its catalog entry (rules R203, R204). -/
theorem classify_other (cfg : Config) {sw1 sw2 : Byte} (other : isNamedStatus sw1 sw2 = false) :
    classify cfg sw1 sw2 = ((swCatalogAt cfg (code16 sw1 sw2)).map SwClass.warningOrError).getD .unknown := by
  obtain ⟨hsuccess, hmore⟩ := (isNamedStatus_eq_false sw1 sw2).1 other
  rw [classify, if_neg (mt (code16_eq_success_iff sw1 sw2).1 hsuccess), if_neg hmore]
  cases swCatalogAt cfg (code16 sw1 sw2) with
  | some d => rfl
  | none => rfl

/-- Settles O45, by the three moves of a response: each goes where the class of its status word says. -/
theorem engineAgreesWithTheClassification : Obligations.EngineAgreesWithTheClassification := by
  intro s pre sw1 sw2 sending pending
  obtain ⟨t, ht⟩ := exec_isNext (.response pre sw1 sw2) s
  refine ⟨t, ht, ?_⟩
  obtain ⟨rfl, rfl, rfl⟩ | ⟨rfl, rfl⟩ | ⟨other, rfl⟩ :=
    execResponse_cases pre sw1 sw2 s t ((waitsForAnswer_iff _).2 ⟨sending, pending⟩) ht
  · simp [classify_success]
  · simp [classify_moreData]
  · rw [classify_other s.cfg other]
    cases swCatalogAt s.cfg (code16 sw1 sw2) with
    | some d => simp
    | none => simp

/-! ### Continuation and delivery -/

/-- Settles O38: the row enters the error of the cap, and XE's step after a `61xx` runs the row. -/
theorem capEndsTheContinuation : Obligations.CapEndsTheContinuation := by
  intro s l awaiting hcap
  have reached : capReached s.cfg s.xe = true := (capReached_iff _ _).2 hcap.ge
  refine ⟨execGetResponse_cap l s awaiting reached, fun es turn hsw => ?_⟩
  rw [step_continuation s es l turn awaiting hsw]
  exact execGetResponse_cap l (s.withEvents es) awaiting reached

/-- Settles O39: the row writes the continuation, and XE's step after a `61xx` runs the row; below the cap no round wraps. -/
theorem getResponseContinuesBelowTheCap : Obligations.GetResponseContinuesBelowTheCap := by
  intro s l awaiting hlt
  have below : capReached s.cfg s.xe = false := by simpa [capReached] using hlt
  refine ⟨s.xe.rounds + 1#8, rounds_succ_toNat s.cfg s.xe below, execGetResponse_below l s awaiting below,
    fun es turn hsw => ?_⟩
  rw [step_continuation s es l turn awaiting hsw]
  exact execGetResponse_below l (s.withEvents es) awaiting below

/-- Settles O40: in `Done` the invariant fixes the status word that is delivered. -/
theorem doneDeliversTheBody : Obligations.DoneDeliversTheBody := by
  rintro s es ⟨-, hx, -⟩ turn done
  obtain ⟨-, -, -, -, -, hsw⟩ := (Xe.ok_done_iff done).1 hx
  exact step_deliverOk turn done hsw

/-- Settles O41: the turn of `Failed` is the return from the error. -/
theorem failedDeliversTheError : Obligations.FailedDeliversTheError :=
  fun _ _ _ turn failed recorded => step_leaveError turn failed recorded

end Sys2Proof.Machine
end

section
/-! PROOFS. An exchange is bounded: in transport calls, whatever the outside does (rule R179), and in steps, when the transport
answers every call (rule R279). -/

namespace Sys2Proof.Machine

open Sys2Proof

/-! ### The bound on calls -/

/-- In no state are more calls to come than one a round and the first. -/
theorem Xe.callsLeft_le (cfg : Config) (x : Xe) : x.callsLeft cfg ≤ cfg.maxContinuations.val + 1 := by
  have hrounds : cfg.maxContinuations.val - x.rounds.toNat ≤ cfg.maxContinuations.val := Nat.sub_le _ _
  cases hst : x.state with
  | sending =>
    have hissue : (if x.txPending then 0 else 1) ≤ 1 := by split <;> simp
    simpa only [Xe.callsLeft, hst] using Nat.add_le_add hrounds hissue
  | awaitingContinuation => simpa only [Xe.callsLeft, hst] using Nat.le_succ_of_le hrounds
  | idle | done | failed => simp [Xe.callsLeft, hst]

/-- Out of a busy state no move adds to the calls made and the calls to come: the issue step turns one into the other, and a
continuation round spends a round for the call it allows. -/
theorem Move.calls_bound {s t : State} (hm : Move s t) (busy : s.xe.state ≠ .idle) :
    t.calls.length + t.xe.callsLeft t.cfg ≤ s.calls.length + s.xe.callsLeft s.cfg := by
  cases hm with
  | stay | character | decoded | atrResult | description | enqueue => exact Nat.le_refl _
  | invalid _ _ idle | accept _ _ idle => exact absurd idle busy
  | issue _ sending free =>
    have hbefore : s.xe.callsLeft s.cfg = s.cfg.maxContinuations.val - s.xe.rounds.toNat + 1 := by
      simp [Xe.callsLeft, sending, free]
    have hafter : s.xe.markIssued.callsLeft s.cfg = s.cfg.maxContinuations.val - s.xe.rounds.toNat := by
      simp [Xe.callsLeft, sending]
    rw [State.issue_xe, State.issue_cfg, State.issue_calls, List.length_append, List.length_singleton, hbefore, hafter]
    omega
  | moreData pre l waits =>
    obtain ⟨sending, pending⟩ := (waitsForAnswer_iff _).1 waits
    simp [Xe.callsLeft, sending, pending]
  | failure | short | success | cardStatus | cap | deliverOk | leaveError | reset => simp [Xe.callsLeft]
  -- the case left is `Move.continue`, whose name is a keyword and cannot label a case
  | _ l awaiting below =>
    have hlt : s.xe.rounds.toNat < s.cfg.maxContinuations.val := by simpa [capReached] using below
    have hbefore : s.xe.callsLeft s.cfg = s.cfg.maxContinuations.val - s.xe.rounds.toNat := by
      simp [Xe.callsLeft, awaiting]
    have hafter : (s.xe.continueWith l).callsLeft s.cfg = s.cfg.maxContinuations.val - (s.xe.rounds.toNat + 1) + 1 := by
      simp only [Xe.callsLeft, Xe.continueWith_state, Xe.continueWith_txPending, Xe.continueWith_rounds,
        rounds_succ_toNat s.cfg s.xe below, Bool.false_eq_true, if_false]
    rw [State.withXe_xe, State.withXe_cfg, State.withXe_calls, hbefore, hafter]
    omega

/-- Settles O57: a step out of a busy state is a move out of it, and an instruction makes no call. -/
theorem callsAreBounded : Obligations.CallsAreBounded := by
  refine ⟨fun s t busy h => ?_, fun s t session cmd _ h => ?_⟩
  · obtain ⟨s', hp, hm⟩ := step_cases s t h
    have hbound := hm.calls_bound (hp.xe ▸ busy)
    rwa [hp.calls, hp.xe, hp.cfg] at hbound
  · obtain ⟨u, hu, hcalls, hcfg, -⟩ := instructionsMakeNoCall (.exchange session cmd) s
    obtain rfl : u = t := by simpa [hu] using h
    exact ⟨hcalls, hcfg ▸ u.xe.callsLeft_le u.cfg⟩

/-! ### The bound on steps -/

/-- How many steps are left of the present round at most: issue, answer, the sorting of a `61xx` at the cap, and delivery. -/
def Xe.roundSteps (x : Xe) : Nat :=
  match x.state with
  | .idle => 0
  | .sending => if x.txPending then 3 else 4
  | .awaitingContinuation => 2
  | .done => 1
  | .failed => 1

/-- A finer count than `Xe.stepsLeft`, one that every step lowers: three steps for each round still to come, and what is left of
the present one. -/
def Xe.stepsToEnd (cfg : Config) (x : Xe) : Nat := 3 * (cfg.maxContinuations.val - x.rounds.toNat) + x.roundSteps

theorem Xe.roundSteps_le (x : Xe) : x.roundSteps ≤ 4 := by
  unfold Xe.roundSteps
  cases x.state with
  | sending => cases x.txPending <;> decide
  | _ => simp

theorem Xe.roundSteps_pos {x : Xe} (busy : x.state ≠ .idle) : 0 < x.roundSteps := by
  unfold Xe.roundSteps
  cases hst : x.state with
  | idle => exact absurd hst busy
  | sending => cases x.txPending <;> decide
  | awaitingContinuation | done | failed => simp

theorem Xe.roundSteps_le_two {x : Xe} (left : x.state ≠ .sending) : x.roundSteps ≤ 2 := by
  unfold Xe.roundSteps
  cases hst : x.state with
  | sending => exact absurd hst left
  | _ => simp

theorem Xe.stepsToEnd_le (cfg : Config) (x : Xe) : x.stepsToEnd cfg ≤ x.stepsLeft cfg :=
  Nat.add_le_add_left x.roundSteps_le _

theorem Xe.roundSteps_waiting {x : Xe} (waits : x.waitsForAnswer = true) : x.roundSteps = 3 := by
  obtain ⟨sending, pending⟩ := (waitsForAnswer_iff x).1 waits
  simp [Xe.roundSteps, sending, pending]

/-! ### One step of an exchange -/

/-- What one step does to an exchange in progress when the transport answers: it delivers the one result and clears XE, or it
leaves XE busy and nearer its end, with nothing delivered. -/
inductive Advance (s : State) : State → Prop
  | ends (r : Except XeError ApduResponse) : Advance s ((s.deliver (.exchange r)).withXe Xe.reset)
  | goesOn (x : Xe) (calls : List Call) (busy : x.state ≠ .idle)
      (nearer : x.stepsToEnd s.cfg < s.xe.stepsToEnd s.cfg) : Advance s { s with xe := x, calls := calls }

section
variable {s : State}

/-- Within a round, going on is being left with fewer of its steps. -/
theorem Advance.inRound {x : Xe} (calls : List Call) (busy : x.state ≠ .idle) (same : x.rounds = s.xe.rounds)
    (fewer : x.roundSteps < s.xe.roundSteps) : Advance s { s with xe := x, calls := calls } := by
  refine .goesOn x calls busy ?_
  rw [Xe.stepsToEnd, same]
  exact Nat.add_lt_add_left fewer _

/-- An answer ends the wait (rules R165 to R170). -/
theorem Advance.answered {x : Xe} (waits : s.xe.waitsForAnswer = true) (left : x.state ≠ .sending)
    (busy : x.state ≠ .idle) (same : x.rounds = s.xe.rounds) : Advance s (s.withXe x) :=
  .inRound s.calls busy same ((Xe.roundSteps_le_two left).trans_lt (by rw [Xe.roundSteps_waiting waits]; decide))

theorem exec_response_advances {r : List Byte} {v : State} (waits : s.xe.waitsForAnswer = true)
    (h : exec (decodeResponse r) s = .next v) : Advance s v := by
  obtain ⟨-, b, hb⟩ | ⟨-, pre, sw1, sw2, hr⟩ := decodeResponse_cases r
  · rw [hb, exec, execResponseShort_waiting b s waits] at h
    cases h
    exact .answered waits (by simp) (by simp) rfl
  · rw [hr] at h
    obtain ⟨-, -, rfl⟩ | ⟨-, rfl⟩ | ⟨-, rfl⟩ := execResponse_cases pre sw1 sw2 s v waits h
    · exact .answered waits (by simp) (by simp) rfl
    · exact .answered waits (by simp) (by simp) rfl
    · exact .answered waits (by simp) (by simp) rfl

/-- A continuation spends a round, three steps of the count, for the two it adds to the present one. -/
theorem exec_getResponse_advances {l : Byte} (awaiting : s.xe.state = .awaitingContinuation) :
    ∃ v, exec (.getResponse l) s = .next v ∧ Advance s v := by
  have hsteps : s.xe.roundSteps = 2 := by simp [Xe.roundSteps, awaiting]
  cases hc : capReached s.cfg s.xe with
  | true =>
    refine ⟨_, execGetResponse_cap l s awaiting hc, .inRound (x := s.xe.enterError _) s.calls (by simp) rfl ?_⟩
    rw [hsteps]
    exact Nat.one_lt_two
  | false =>
    refine ⟨_, execGetResponse_below l s awaiting hc, .goesOn (s.xe.continueWith l) s.calls (by simp) ?_⟩
    have hlt : s.xe.rounds.toNat < s.cfg.maxContinuations.val := by simpa [capReached] using hc
    have hrounds : (s.xe.continueWith l).rounds.toNat = s.xe.rounds.toNat + 1 := rounds_succ_toNat s.cfg s.xe hc
    have hnext : (s.xe.continueWith l).roundSteps = 4 := rfl
    rw [Xe.stepsToEnd, Xe.stepsToEnd, hrounds, hnext, hsteps]
    omega

theorem withEvents_nil (quiet : s.events = []) : s.withEvents [] = s := by
  rw [← quiet, State.withEvents_self]

/-- The answer to the outstanding call moves the exchange on, whatever it is. -/
theorem step_answered_advances (a : Answer) (inactive : s.atrd.active = false) (quiet : s.events = [])
    (waits : s.xe.waitsForAnswer = true) :
    ∃ v, step (s.withEvents [.answer s.calls.length a]) = .next v ∧ Advance s v := by
  have turn : (s.withEvents [.answer s.calls.length a]).EventTurn (.answer s.calls.length a) [] := ⟨inactive, rfl⟩
  have taken : (s.withEvents [.answer s.calls.length a]).withEvents [] = s := withEvents_nil quiet
  cases a with
  | bytes r =>
    obtain ⟨sending, pending⟩ := (waitsForAnswer_iff _).1 waits
    have hstep := step_answer (s.withEvents [.answer s.calls.length (.bytes r)]) r [] turn sending pending
    obtain ⟨v, hv⟩ := exec_isNext (decodeResponse r) s
    rw [taken, hv] at hstep
    exact ⟨v, hstep, exec_response_advances waits hv⟩
  | failure info =>
    have hstep := step_failure turn waits
    rw [taken] at hstep
    exact ⟨_, hstep, .answered waits (by simp) (by simp) rfl⟩

/-- XE's own turn moves the exchange on where no answer is awaited. -/
theorem step_alone_advances (inv : s.Inv) (quiet : s.events = []) (busy : s.xe.state ≠ .idle)
    (notWaiting : s.xe.waitsForAnswer = false) : ∃ v, step s = .next v ∧ Advance s v := by
  obtain ⟨hatrd, hx, -⟩ := inv
  have turn : s.XeTurn [] := ⟨by rw [hatrd]; rfl, .inl ⟨quiet, rfl⟩⟩
  have taken := withEvents_nil quiet
  cases hst : s.xe.state with
  | idle => exact absurd hst busy
  | sending =>
    have free : s.xe.txPending = false := by simpa [Xe.waitsForAnswer, hst] using notWaiting
    obtain ⟨hsession, -⟩ := (Xe.ok_sending_iff hst).1 hx
    obtain ⟨session, latched⟩ := Option.isSome_iff_exists.1 hsession
    have hstep := step_issue turn hst free latched
    rw [taken] at hstep
    refine ⟨_, hstep, .inRound (x := s.xe.markIssued) _ busy rfl ?_⟩
    simp [Xe.roundSteps, hst, free]
  | awaitingContinuation =>
    obtain ⟨-, -, -, -, -, l, hsw⟩ := (Xe.ok_awaiting_iff hst).1 hx
    rw [step_continuation s [] l turn hst hsw, taken]
    exact exec_getResponse_advances hst
  | done =>
    obtain ⟨-, -, -, -, -, hsw⟩ := (Xe.ok_done_iff hst).1 hx
    have hstep := step_deliverOk turn hst hsw
    rw [taken] at hstep
    exact ⟨_, hstep, .ends _⟩
  | failed =>
    obtain ⟨-, -, e, he, -⟩ := (Xe.ok_failed_iff hst).1 hx
    have hstep := step_leaveError turn hst he
    rw [taken] at hstep
    exact ⟨_, hstep, .ends _⟩

theorem step_withAnswer_advances (t : Nat → Answer) (inv : s.Inv) (quiet : s.events = []) (busy : s.xe.state ≠ .idle) :
    ∃ v, step (s.withAnswer t) = .next v ∧ Advance s v := by
  have inactive : s.atrd.active = false := by rw [inv.1]; rfl
  cases waits : s.xe.waitsForAnswer with
  | true => simpa [State.withAnswer, waits] using step_answered_advances (t s.calls.length) inactive quiet waits
  | false => simpa [State.withAnswer, waits] using step_alone_advances inv quiet busy waits

/-! ### The run to its end -/

/-- The answer that is added is an input at a port, and nothing else is changed. -/
theorem withAnswer_samePorts (t : Nat → Answer) (s : State) : SamePorts s (s.withAnswer t) := by
  unfold State.withAnswer
  split
  · exact ⟨rfl, rfl, rfl, rfl, rfl, fun _ => rfl⟩
  · exact .refl s

theorem drive_succ {t : Nat → Answer} {v : State} (n : Nat) (h : step (s.withAnswer t) = .next v) :
    drive t (n + 1) s = drive t n v := by
  simp only [drive, h]

end

/-- From `s` to `u` the exchange in progress has ended with the result `r`: XE is cleared, no more calls were made than it had
left, and the requests that wait still wait. -/
structure ExchangeEnded (s : State) (r : Except XeError ApduResponse) (u : State) : Prop where
  xe : u.xe = Xe.reset
  events : u.events = []
  delivered : u.delivered = s.delivered ++ [.exchange r]
  waiting : u.waiting = s.waiting
  calls : u.calls.length ≤ s.calls.length + s.xe.callsLeft s.cfg

theorem drive_ends (t : Nat → Answer) (n : Nat) {s : State} (inv : s.Inv) (quiet : s.events = [])
    (busy : s.xe.state ≠ .idle) (enough : s.xe.stepsToEnd s.cfg ≤ n) :
    ∃ m u r, m ≤ n ∧ drive t m s = .next u ∧ ExchangeEnded s r u := by
  induction n generalizing s with
  | zero =>
    have hpos := s.xe.roundSteps_pos busy
    exact absurd enough (Nat.not_le.2 (Nat.add_pos_right _ hpos))
  | succ n ih =>
    obtain ⟨v, hstep, hadv⟩ := step_withAnswer_advances t inv quiet busy
    have hp := withAnswer_samePorts t s
    have hinv : v.Inv := stepKeepsTheInvariant _ v (hp.inv inv) hstep
    have hcalls := callsAreBounded.1 _ v (hp.xe ▸ busy) hstep
    rw [hp.calls, hp.xe, hp.cfg] at hcalls
    cases hadv with
    | ends r => exact ⟨1, _, r, by omega, drive_succ 0 hstep, rfl, quiet, rfl, rfl, Nat.le_add_right _ _⟩
    | goesOn x calls hbusy nearer =>
      obtain ⟨m, u, r, hm, hdrive, hend⟩ := ih hinv quiet hbusy (Nat.le_of_lt_succ (nearer.trans_le enough))
      exact ⟨m + 1, u, r, Nat.succ_le_succ hm, (drive_succ m hstep).trans hdrive,
        { hend with calls := hend.calls.trans hcalls }⟩

/-- Settles O58: `Xe.stepsToEnd` is within the statement's bound, and `Xe.callsLeft` within its bound on calls. -/
theorem exchangeEndsWhenTheTransportAnswers : Obligations.ExchangeEndsWhenTheTransportAnswers := by
  intro t s inv quiet busy
  obtain ⟨n, u, r, hn, hdrive, hend⟩ := drive_ends t _ inv quiet busy (s.xe.stepsToEnd_le s.cfg)
  exact ⟨n, u, r, hn, hdrive, hend.xe, hend.events, hend.delivered, hend.waiting,
    hend.calls.trans (Nat.add_le_add_left (s.xe.callsLeft_le s.cfg) _)⟩

end Sys2Proof.Machine
end

section
/-! PROOFS. The status catalog unit: the four classes of a status word, and the two lookups. -/

namespace Sys2Proof.Machine

open Sys2Proof

/-! ### The four classes -/

theorem isNamedStatus_eq_true (sw1 sw2 : Byte) :
    isNamedStatus sw1 sw2 = true ↔ (sw1 = 0x90#8 ∧ sw2 = 0x00#8) ∨ sw1 = 0x61#8 := by
  simp [isNamedStatus]

/-- Settles O44, by the three kinds of status word: `9000`, `61xx`, and every other, which its catalog entry classes. -/
theorem classificationInOrder : Obligations.ClassificationInOrder := by
  intro cfg sw1 sw2
  cases other : isNamedStatus sw1 sw2 with
  | false =>
    obtain ⟨hsuccess, hmore⟩ := (isNamedStatus_eq_false sw1 sw2).1 other
    rw [classify_other cfg other, swCatalogAt]
    cases cfg.swCatalog.lookup (code16 sw1 sw2) with
    | some d => simp [hsuccess, hmore]
    | none => simp [hsuccess, hmore]
  | true =>
    obtain ⟨rfl, rfl⟩ | rfl := (isNamedStatus_eq_true sw1 sw2).1 other
    · simp [classify_success]
    · simp [classify_moreData, eq_comm (a := sw2)]

/-! ### The two lookups -/

/-- A code that fits in 16 bits is looked up as the status word of its value (rule R206). -/
theorem describeSwResult_of_toNat_eq (cfg : Config) {c : Code16} {code : Code32} (hcode : c.toNat = code.toNat) :
    describeSwResult cfg code = swCatalogAt cfg c := by
  have hwidth : code.setWidth 16 = c := BitVec.eq_of_toNat_eq (by
    rw [BitVec.toNat_setWidth, ← hcode, Nat.mod_eq_of_lt c.isLt])
  rw [describeSwResult, if_pos (hcode ▸ Nat.le_of_lt_succ c.isLt), hwidth]

/-- A code above `0xFFFF` is no status word (rule R206). -/
theorem describeSwResult_of_gt (cfg : Config) {code : Code32} (hcode : 0xFFFF < code.toNat) :
    describeSwResult cfg code = none :=
  if_neg (Nat.not_le.2 hcode)

theorem exec_describeSw (code : Code32) (s : State) :
    exec (.describeSw code) s = .next (s.deliver (.description (describeSwResult s.cfg code))) := rfl

theorem exec_describeTransport (code : Code32) (s : State) :
    exec (.describeTransport code) s = .next (s.deliver (.description (transportCatalogAt s.cfg code))) := rfl

/-- Settles O46: what is delivered is the lookup's result, on either side of `0xFFFF`. -/
theorem describeSwLooksUpTheStatusCatalog : Obligations.DescribeSwLooksUpTheStatusCatalog := by
  intro s code
  refine ⟨fun c hcode => ?_, fun hcode => ?_⟩
  · rw [exec_describeSw, describeSwResult_of_toNat_eq s.cfg hcode]
    rfl
  · rw [exec_describeSw, describeSwResult_of_gt s.cfg hcode]
    rfl

/-- Settles O47: each lookup reads one field of the configuration, and a change of the other is not seen. -/
theorem describeTransportLooksUpItsOwnCatalog : Obligations.DescribeTransportLooksUpItsOwnCatalog :=
  ⟨fun s code => exec_describeTransport code s, fun _ _ _ => rfl, fun _ _ _ => rfl⟩

end Sys2Proof.Machine
end

section
/-! PROOFS. The byte notation of spec/43_host_text_notation.md: what `renderBytes` writes is split into the texts of its bytes, and
`parseTokens` stops at the first token that is no byte. -/

namespace Sys2Proof.Machine

open Sys2Proof

/-! ### Splitting a text into tokens -/

/-- Characters that are no spaces all go on with the token (rule R221). -/
theorem tokensFrom_append {word : List Char} (hword : ' ' ∉ word) (cur cs : List Char) :
    tokensFrom cur (word ++ cs) = tokensFrom (word.reverse ++ cur) cs := by
  induction word generalizing cur with
  | nil => rfl
  | cons c word ih =>
    obtain ⟨hc, hrest⟩ := List.ne_and_not_mem_of_not_mem_cons hword
    rw [List.cons_append, tokensFrom_char _ _ _ hc.symm, ih hrest]
    simp

/-- A word at the end of the text is its last token (rule R221). -/
theorem tokens_word {word : List Char} (hword : ' ' ∉ word) (hne : word ≠ []) : tokens word = [word] := by
  have hread := tokensFrom_append hword [] []
  simpa [tokens, tokensFrom, hne] using hread

/-- A word before a space is a token, and the text after the space is split on its own (rule R221). -/
theorem tokens_word_space {word : List Char} (hword : ' ' ∉ word) (hne : word ≠ []) (cs : List Char) :
    tokens (word ++ ' ' :: cs) = word :: tokens cs := by
  have hread := tokensFrom_append hword [] (' ' :: cs)
  simpa [tokens, tokensFrom, hne] using hread

/-! ### The text of a byte sequence -/

theorem space_notMem_renderByte (b : Byte) : ' ' ∉ renderByte b := by
  simp [renderByte, (hexChar_ne_space _).symm]

theorem renderByte_ne_nil (b : Byte) : renderByte b ≠ [] := List.cons_ne_nil _ _

theorem tokens_renderBytes (bs : List Byte) : tokens (renderBytes bs) = bs.map renderByte := by
  induction bs using renderBytes.induct with
  | case1 => rfl
  | case2 b => exact tokens_word (space_notMem_renderByte b) (renderByte_ne_nil b)
  | case3 b bs hbs ih =>
    rw [renderBytes.eq_3 b bs hbs, tokens_word_space (space_notMem_renderByte b) (renderByte_ne_nil b), ih, List.map_cons]

/-! ### Parsing tokens -/

/-- A valid token puts its byte before what the rest gives, and an error of the rest is the error of the whole (rules R220
and R223). -/
theorem parseTokens_cons_ok {t : List Char} {b : Byte} (ht : parseToken t = .ok b) (ts : List (List Char)) :
    parseTokens (t :: ts) = (parseTokens ts).map (b :: ·) := by
  simp only [parseTokens, ht]
  cases parseTokens ts <;> rfl

/-- A token that is no byte stops parsing, whatever follows (rule R223). -/
theorem parseTokens_cons_error {t : List Char} {e : ParseError} (ht : parseToken t = .error e) (ts : List (List Char)) :
    parseTokens (t :: ts) = .error e := by
  simp only [parseTokens, ht]

theorem parseTokens_map_renderByte (bs : List Byte) : parseTokens (bs.map renderByte) = .ok bs := by
  induction bs with
  | nil => rfl
  | cons b bs ih =>
    rw [List.map_cons, parseTokens_cons_ok (parseToken_renderByte b), ih]
    rfl

/-- Settles O59: the tokens of the text are the texts of the bytes, and each parses to its byte. -/
theorem byteNotationRoundTrip : Obligations.ByteNotationRoundTrip := by
  intro bs
  rw [tokens_renderBytes, parseTokens_map_renderByte]

/-! ### The first invalid token -/

/-- Two digits' value fits in a byte, so nothing of it is lost (rule R222). -/
theorem ofNat_digits_eq_iff {h l : Char} {hi lo : Nat} (hhi : hexDigit h = some hi) (hlo : hexDigit l = some lo) (b : Byte) :
    BitVec.ofNat 8 (16 * hi + lo) = b ↔ b.toNat = 16 * hi + lo := by
  have hhi_lt := hexDigit_lt h hi hhi
  have hlo_lt := hexDigit_lt l lo hlo
  rw [← BitVec.toNat_inj, BitVec.toNat_ofNat, Nat.mod_eq_of_lt (by omega), eq_comm]

theorem parseToken_digits {h l : Char} {hi lo : Nat} (hhi : hexDigit h = some hi) (hlo : hexDigit l = some lo) :
    parseToken [h, l] = .ok (BitVec.ofNat 8 (16 * hi + lo)) := by
  simp only [parseToken, hhi, hlo]

/-- All that a token can parse to: the byte of its two digits, or the error that names it (rules R222 and R223). -/
theorem parseToken_cases (t : List Char) :
    (∃ h l hi lo, t = [h, l] ∧ hexDigit h = some hi ∧ hexDigit l = some lo) ∨
      parseToken t = .error { token := String.ofList t } := by
  unfold parseToken
  split
  case h_1 h l =>
    split
    case h_1 hi lo hhi hlo => exact .inl ⟨h, l, hi, lo, rfl, hhi, hlo⟩
    case h_2 => exact .inr rfl
  case h_2 => exact .inr rfl

theorem parseToken_eq_ok_iff (t : List Char) (b : Byte) : parseToken t = .ok b ↔
    ∃ h l hi lo, t = [h, l] ∧ hexDigit h = some hi ∧ hexDigit l = some lo ∧ b.toNat = 16 * hi + lo := by
  constructor
  · intro hok
    obtain ⟨h, l, hi, lo, rfl, hhi, hlo⟩ | herror := parseToken_cases t
    · rw [parseToken_digits hhi hlo, Except.ok.injEq, ofNat_digits_eq_iff hhi hlo] at hok
      exact ⟨h, l, hi, lo, rfl, hhi, hlo, hok⟩
    · rw [herror] at hok
      cases hok
  · rintro ⟨h, l, hi, lo, rfl, hhi, hlo, hb⟩
    rw [parseToken_digits hhi hlo, (ofNat_digits_eq_iff hhi hlo b).2 hb]

/-- A token that is no byte gives the error that names it (rule R223). -/
theorem parseToken_eq_error {t : List Char} (ht : ∀ b, parseToken t ≠ .ok b) :
    parseToken t = .error { token := String.ofList t } := by
  obtain ⟨h, l, hi, lo, rfl, hhi, hlo⟩ | herror := parseToken_cases t
  · exact absurd (parseToken_digits hhi hlo) (ht _)
  · exact herror

theorem parseTokens_first_error {pre : List (List Char)} (hpre : ∀ u ∈ pre, ∃ b, parseToken u = .ok b) {t : List Char}
    (ht : ∀ b, parseToken t ≠ .ok b) (post : List (List Char)) :
    parseTokens (pre ++ t :: post) = .error { token := String.ofList t } := by
  induction pre with
  | nil => exact parseTokens_cons_error (parseToken_eq_error ht) post
  | cons u pre ih =>
    obtain ⟨hu, hrest⟩ := List.forall_mem_cons.1 hpre
    obtain ⟨b, hb⟩ := hu
    rw [List.cons_append, parseTokens_cons_ok hb, ih hrest]
    rfl

/-- Settles O60, by what a token can parse to and by induction on the tokens before the bad one; the three texts of rule R223 are
run. -/
theorem firstBadTokenIsNamed : Obligations.FirstBadTokenIsNamed :=
  ⟨parseToken_eq_ok_iff, fun _ _ post hpre ht => parseTokens_first_error hpre ht post, rfl, rfl, rfl⟩

end Sys2Proof.Machine
end

section
/-! PROOFS. The codes of the error kinds (rule R240). -/

namespace Sys2Proof.Machine

open Sys2Proof

theorem Malformed.code_ne_zero (m : Malformed) : m.code ≠ 0x00#8 := by
  cases m <;> simp [Malformed.code]

theorem XeError.code_ne_zero (e : XeError) : e.code ≠ 0x00#8 := by
  cases e <;> simp [XeError.code]

/-- `0x00` is the code of no error (rule R240). That a description lookup has it too is the
model's reading (notes/assumptions/13). -/
theorem HostResult.code_eq_zero_iff (r : HostResult) :
    r.code = 0x00#8 ↔ (∀ m, r ≠ .atr (.error m)) ∧ (∀ e, r ≠ .exchange (.error e)) := by
  constructor
  · intro hzero
    constructor
    · rintro m rfl
      exact m.code_ne_zero hzero
    · rintro e rfl
      exact e.code_ne_zero hzero
  · rintro ⟨notAtr, notExchange⟩
    match r with
    | .atr (.ok _) => rfl
    | .atr (.error m) => exact absurd rfl (notAtr m)
    | .exchange (.ok _) => rfl
    | .exchange (.error e) => exact absurd rfl (notExchange e)
    | .description _ => rfl

/-- Settles O7: the codes are read off the definitions; that `0x00` means no error is `HostResult.code_eq_zero_iff`. -/
theorem errorCodesNameTheKind : Obligations.ErrorCodesNameTheKind :=
  ⟨rfl, rfl, rfl, rfl, fun _ => rfl, rfl, fun _ _ _ => rfl, rfl, fun _ => rfl, rfl, rfl, rfl, rfl, rfl, rfl,
    HostResult.code_eq_zero_iff⟩

end Sys2Proof.Machine
end

section
/-! PROOFS. Reset, and the answers that XE does not wait for (rules R270 to R272). -/

namespace Sys2Proof.Machine

open Sys2Proof

section
variable {s : State} {es : List Event}

theorem step_reset (turn : s.EventTurn .reset es) : step s = .next (s.withEvents es).resetBlock :=
  step_goTo s _ (nextAction_event s .reset es turn)

/-- In `Idle` with no request waiting XE's turn does nothing (rule R180). -/
theorem step_idle_waits (turn : s.XeTurn es) (idle : s.xe.state = .idle) (none_waiting : s.waiting = []) :
    step s = .next (s.withEvents es) := by
  have no_pick : (s.withEvents es).pickWaiting = none := (pickWaiting_none _).2 none_waiting
  apply step_goTo
  simp only [nextAction_xe s es turn, xeAction, State.withEvents_xe, idle, no_pick]

/-- An answer that is not expected is taken from the port and has no other effect (rule R271), bytes or failure alike. -/
theorem step_unexpected_answer {n : Nat} {a : Answer} (turn : s.EventTurn (.answer n a) es)
    (unexpected : ¬s.expects n = true) : step s = .next (s.withEvents es) := by
  have unexpected' : ¬(s.withEvents es).expects n = true := unexpected
  apply step_goTo
  rw [nextAction_event s _ es turn, eventAction]
  cases a with
  | bytes r => exact if_neg unexpected'
  | failure info => exact if_neg unexpected'

end

/-- Settles O42: reset is one write of the registers, and power-on is `Idle` with no request. -/
theorem resetClearsXeAndKeepsTheConfiguration : Obligations.ResetClearsXeAndKeepsTheConfiguration :=
  ⟨fun _ _ turn => ⟨_, step_reset turn, rfl, rfl, rfl⟩, rfl, step_idle_waits ⟨rfl, .inl ⟨rfl, rfl⟩⟩ rfl rfl⟩

/-- Settles O43: each of the three cases denies one part of what makes an answer expected (`expects_iff`). -/
theorem abandonedAnswersAreDiscarded : Obligations.AbandonedAnswersAreDiscarded := by
  intro s n a es turn abandoned
  have unexpected : ¬s.expects n = true := by
    intro expected
    obtain ⟨⟨sending, pending⟩, last⟩ := (expects_iff s n).1 expected
    obtain not_sending | not_pending | not_last := abandoned
    · exact not_sending sending
    · exact Bool.false_ne_true (not_pending.symm.trans pending)
    · exact not_last last
  exact ⟨_, step_unexpected_answer turn unexpected, rfl, rfl, rfl, rfl, rfl⟩

end Sys2Proof.Machine
end
